-- ==== Sys2Proof/Word.lean ====
section
/-!
DEFINITION. Word.lean: the bit vectors of the manual (bytes, sheet tags, the Transport Count, the sensed lines) and the
index types of its numbered objects (00_scope.md sections 5 to 7).
-/
namespace Sys2Proof

/-- One byte of a frame body or of raster. -/
abbrev Byte := BitVec 8

/-- A 16-bit value of the link: a request tag, a CRC, a notice number, a discard count. -/
abbrev Half := BitVec 16

/-- A sheet tag, 0 to 65535; the tag counter wraps (R51). -/
abbrev Tag := BitVec 16

/-- A value of the Transport Count, 32 bits, wrapping (R42). -/
abbrev Count := BitVec 32

/-- The 24 checkpoint lines read together: bit n is CKn, 1 for covered (R34). -/
abbrev CheckpointLines := BitVec 24

/-- The 6 cover lines read together: bit n is CVn, 1 for open (R38). -/
abbrev CoverLines := BitVec 6

abbrev Checkpoint := Fin 24
abbrev Cover := Fin 6
abbrev Tray := Fin 6
/-- B0 to B5; the purge bin BP is coded 6 and has no bin record (R77). -/
abbrev Bin := Fin 6
abbrev JobSlot := Fin 8
abbrev RouteNo := Fin 16

/-- A delivery sequence, 1 upward; it never wraps (R133). -/
abbrev Seq := Nat

end Sys2Proof
end

