-- ==== Sys2Proof/Config.lean ====
section
/-!
DEFINITION. Config.lean: the fixed capacities of the part (00_scope.md section 7) and its free values.
-/
namespace Sys2Proof.Config

/-- Places of the U-port input FIFO (R3). -/
def fifoPlaces : Nat := 2
/-- Entries of the notice queue (R10). -/
def noticePlaces : Nat := 32
/-- Entries of the upward status queue (R9). -/
def statusPlaces : Nat := 8
/-- Records of the Sheet Tracking Table (R49). -/
def sheetSlots : Nat := 24
/-- Entries of the Order Queue (R130). -/
def orderPlaces : Nat := 64
/-- Checkpoints one sheet may occupy (R54). -/
def occupiedMax : Nat := 3
/-- Detail entries of an incident record (R148). -/
def detailMax : Nat := 8
/-- Occurrences an incident record counts (R148). -/
def occurrenceMax : Nat := 255
/-- Sets of the Page Directory (R94). -/
def sets : Nat := 64
/-- Ways of one set (R94). -/
def ways : Nat := 4
/-- Blocks of the Band Pool (R115). -/
def blocks : Nat := 8192
/-- Bytes of one block, 32 KiB (R115). -/
def blockBytes : Nat := 32768
/-- Page keys one FLUSH REPORT carries (R113). -/
def reportKeys : Nat := 16
/-- The highest misfeed retry count (R53). -/
def retryMax : Nat := 4
/-- The highest page number (00_scope.md section 6). -/
def pageMax : Nat := 16777215
/-- The value at which the delivery sequence counter stops (R131, R133). -/
def seqStop : Nat := 4294967295

/-- FREE VALUE (log 14). R100 step 3 takes "the SETHELD way whose owner has the lowest delivery sequence" and does not
say which way when one owner has two in the set. The value picks among them; nothing constrains it. -/
opaque setHeldTie : Seq → Nat

/-- FREE VALUE (log 15). R185 codes a media length in one byte ("Every other number is 1 byte") and does not say which byte
stands for a length above 255 (R132 allows 50 to 8000). The value is that byte; nothing constrains it. -/
opaque longMediaByte : Nat → Byte

end Sys2Proof.Config
end

