-- ==== Sys2Proof/Syntax.lean ====
section
/-!
DEFINITION. Syntax.lean: the commands of the block, one constructor for each row of spec/opcode_table.json, in the
table's order. The rows that take the head of the input FIFO have no operands: their operands are the bytes of that frame.
-/
namespace Sys2Proof

/-- The two ports of the link (00_scope.md section 2). -/
inductive Port | u | e
  deriving DecidableEq, Repr

/-- The side a CALL names (12_frame_and_record_formats.md). -/
inductive Side | front | back
  deriving DecidableEq, Repr

/-- One command: an event of the part (opcode_table.json). -/
inductive Instr where
  /-- PORST is asserted (R16). -/
  | porstAssert
  /-- PORST is released (R16, R47). -/
  | porstRelease
  /-- Reception on a port ends: `bytes` are the bytes from the start delimiter to the end of the frame, or to the start
  delimiter that interrupts it (R1). -/
  | frameReceived (port : Port) (bytes : List Byte)
  | order
  | band
  | engcmd
  | mgmtUnknownRequest
  | readStatus
  | resetPart
  | loadRoute
  | unloadRoute
  | loadBin
  | loadTray
  | setTiming
  | start
  | stop
  | readSheets
  | readBin
  | setRetentionMode
  | inquirePage
  | dropPage
  | flush
  | flushWalkStep
  | openJob
  | closeJob
  | cancelJob
  | trayReady
  | readQueues
  | readIncidents
  | confirmClear
  /-- A good CALL frame arrives (R8, R67). -/
  | call (tag : Tag) (side : Side)
  /-- A good ENGSTAT frame of kind TRAY EMPTY arrives; `rest` are the body bytes after the tray (R9). -/
  | trayEmpty (tray : Tray) (rest : List Byte)
  | trayFilled (tray : Tray) (rest : List Byte)
  | binFull (bin : Bin) (rest : List Byte)
  | binCleared (bin : Bin) (rest : List Byte)
  | setEjected (bin : Bin) (rest : List Byte)
  /-- A good ENGSTAT frame of kind ENGINE FAULT arrives with its fault code, possibly empty (R70, R183). -/
  | engineFault (code : List Byte)
  | compileFault (bin : Bin) (rest : List Byte)
  /-- A good ENGSTAT frame arrives that R9 passes up without a block reading it. -/
  | engstatUnread (body : List Byte)
  | uFrameSent
  | eFrameSent
  | haltSent
  | bandoutSent
  | bandoutGiven
  | writeTransferEnd
  | readTransferEnd
  /-- The Sheet Tracker takes the oldest accepted edge of the checkpoint, a lead (R36, R59). -/
  | leadEdge (ck : Checkpoint)
  /-- The Sheet Tracker takes the oldest accepted edge of the checkpoint, a trail (R36, R64). -/
  | trailEdge (ck : Checkpoint)
  /-- The oldest accepted event of the cover, an open, is taken; `trackerFirst` says whether the Sheet Tracker takes it
  before the Recovery Controller (R39, R69, R155: either may be first). -/
  | coverOpen (cover : Cover) (trackerFirst : Bool)
  | coverShut (cover : Cover)
  | tpEdge
  | countAdvance
  | leadWindowExpiry
  | trailDeadlineExpiry
  | runoutDeadlineExpiry
  | pathStill
  | settleTimerExpiry (bin : Bin)
  | coverSettleExpiry
  | admitGateHead
  /-- One wall tick; `lines` are the levels the cover lines have, read if the tick is a cover sample instant (R38, R46). -/
  | wallTick (lines : CoverLines)
  /-- One checkpoint sample instant with the levels the 24 lines have (R34). -/
  | checkpointSampleInstant (lines : CheckpointLines)
  deriving DecidableEq, Repr

end Sys2Proof
end

