-- ==== Sys2Proof/Decode.lean ====
section
/-!
DEFINITION. Decode.lean: no row of spec/opcode_table.json gives bits, so no word spells a command.
-/
namespace Sys2Proof

/-- The command a word of the table's bits spells: none, since every row's "fields" is empty. -/
def decodeTableWord (_nbits _w : Nat) : Option Instr := none

end Sys2Proof
end

