-- ==== Sys2Proof/Machine/State.lean ====
section
/-!
DEFINITION. Machine/State.lean: everything the spec gives the part to hold, block by block, as plain data; the state right
after power-on reset; and the ways a step could stop. INVENTORY.md lists each piece with its rule and reset value.
-/
namespace Sys2Proof.Machine

/-! ## Link Interface (01_the_page_path_link.md) -/

/-- A whole frame without its delimiter and length: kind, body, CRC (section 1.1). -/
structure Frame where
  kind : Byte
  body : List Byte
  crc : Half
  deriving DecidableEq, Repr

inductive ReplyCode
  | done | refusedUnknown | refusedMode | refusedBusy | refusedFull | refusedInvalid | refusedState
  deriving DecidableEq, Repr

/-- The answer to one MGMT request (R7). -/
structure Reply where
  tag : Half
  request : Byte
  code : ReplyCode
  body : List Byte
  deriving DecidableEq, Repr

/-- A page key, slot:page (00_scope.md section 6). -/
structure PageKey where
  job : JobSlot
  page : Nat
  deriving DecidableEq, Repr

/-- A stapled set: the job slot and set number (R94, R132). -/
structure SetTag where
  job : JobSlot
  set : Nat
  deriving DecidableEq, Repr

inductive DiscardReason | check | format | overrun | mode | retentionFull | gap | duplicate
  deriving DecidableEq, Repr

inductive OrderRefusal | mode | job | invalid | full
  deriving DecidableEq, Repr

inductive IncClass | interlock | jam | misfeed | supply
  deriving DecidableEq, Repr

inductive IncStatus | pending | active | preempted
  deriving DecidableEq, Repr

inductive Phase
  | opened | shutWait | stop | assess | clearance | dispose | runout | rebuild | retry | trayHold | hold
  deriving DecidableEq, Repr

inductive Cause
  | coverOpen | late | early | phantom | stuck | trailFault | sequence | stopStrand | engine | compile | callFault
  | misfeed | trayEmpty | binFull
  deriving DecidableEq, Repr

/-- The object an occurrence names (R148). -/
inductive Obj
  | cover (c : Cover) | tray (t : Tray) | bin (b : Bin) | faultCode (code : List Byte)
  deriving DecidableEq, Repr

/-- A detail entry of an incident record (R148). -/
structure Detail where
  cause : Cause
  ck : Option Checkpoint
  tag : Option Tag
  obj : Option Obj
  deriving DecidableEq, Repr

inductive Disposition | deliver | purge | manual
  deriving DecidableEq, Repr

inductive Stage | a | b
  deriving DecidableEq, Repr

inductive RemoveReason | suspect | outOfOrder | compileTray
  deriving DecidableEq, Repr

/-- One stranded sheet of a JAM REPORT (R167). -/
structure StrandedReport where
  tag : Tag
  seq : Seq
  job : JobSlot
  route : RouteNo
  bin : Bin
  disposition : Option Disposition
  outOfOrder : Bool
  checkpoints : List Checkpoint
  deriving DecidableEq, Repr

/-- One suspect settling sheet of a JAM REPORT (R167). -/
structure SuspectReport where
  tag : Tag
  seq : Seq
  bin : Bin
  stage : Option Stage
  deriving DecidableEq, Repr

/-- The set a COMPILE TRAY REMOVE REQUEST names (R173). -/
structure PurgedSet where
  job : JobSlot
  set : Nat
  sheets : Nat
  deriving DecidableEq, Repr

/-- The fields of a notice, kind by kind (R10 and the posting rules). -/
inductive Notice
  | linkDiscard (reason : DiscardReason) (port : Port) (kind : Byte) (count : Half)
  | orderRefused (reason : OrderRefusal) (jobId : Nat) (front : PageKey) (item : Option Nat)
  | resendRequest (seq : Seq) (jobId : Nat) (job : JobSlot) (fromReissue : Bool) (missing : List PageKey)
  | jobDone (jobId : Nat) (job : JobSlot) (cancelled : Bool) (delivered purged removed : Nat)
  | pageDiscard (key : PageKey) (index : Nat) (reason : DiscardReason)
  | flushBegin (includeSets report : Bool)
  | flushReport (keys : List PageKey)
  | flushEnd (invalidated : Nat)
  | incidentOpened (cls : IncClass) (cause : Cause) (detail : Detail) (status : IncStatus) (preempted : Option IncClass)
  | incidentClosed (cls : IncClass) (first : Cause) (count : Nat) (next : Option IncClass)
  | misfeedReport (tray : Tray) (tag : Tag) (seq : Seq) (job : JobSlot) (count limit : Nat)
  | jamReport (first : Cause) (count : Nat) (details : List Detail) (setPurge : Bool)
      (stranded : List StrandedReport) (suspects : List SuspectReport)
  | clearanceStatus (blocking : List (Checkpoint × Option Tag))
  | removeRequest (reason : RemoveReason) (bin : Bin) (sheets : List (Tag × Seq)) (set : Option PurgedSet)
  | setLost (job : JobSlot) (set : Nat)
  deriving DecidableEq, Repr

/-- A notice with the number its posting took (R10). -/
structure Posted where
  number : Half
  notice : Notice
  deriving DecidableEq, Repr

/-- A frame the U-port transmitter sends (R11). -/
inductive UOut
  | reply (r : Reply) | notice (p : Posted) | engstat (f : Frame)
  deriving DecidableEq, Repr

/-- Where a run-out sends a sheet: its bin, or BP (R174). -/
inductive Dest | bin (b : Bin) | purgeBin
  deriving DecidableEq, Repr

/-- A BANDOUT frame (section 12.3). -/
structure BandOut where
  tag : Tag
  side : Side
  index : Nat
  final : Bool
  data : List Byte
  deriving DecidableEq, Repr

/-- A FEED frame (R137). -/
structure Feed where
  tag : Tag
  tray : Tray
  route : RouteNo
  media : Nat
  duplex : Bool
  deriving DecidableEq, Repr

/-- A frame the E-port transmitter sends (R12). -/
inductive EOut
  | halt | divert (t : Tag) | runout (sheets : List (Tag × Dest)) | bandout (b : BandOut) | feed (f : Feed)
  | engcmd (f : Frame)
  deriving DecidableEq, Repr

/-- The Link Interface. -/
structure Link where
  fifo : List Frame
  reply : Option Reply
  notices : List Posted
  noticeCounter : Half
  dropped : Bool
  checkCount : Half
  formatCount : Half
  overrunCount : Half
  upward : List Frame
  uTx : Option UOut
  haltPlace : Bool
  divertQueue : List Tag
  runoutPlace : Option (List (Tag × Dest))
  bandoutPlace : Option BandOut
  feedPlace : Option Feed
  engcmdPlace : Option Frame
  eTx : Option EOut
  deriving DecidableEq, Repr

/-! ## Path Description Store (02_path_description_tables.md) -/

inductive Zone | blank | imaged | finished | finisher
  deriving DecidableEq, Repr

inductive SideMark | none | front | back
  deriving DecidableEq, Repr

/-- One step of a route (section 2.1). -/
structure RouteStep where
  ck : Checkpoint
  earliest : Nat
  latest : Nat
  tolerance : Nat
  zone : Zone
  mark : SideMark
  divertLast : Bool
  isExit : Bool
  deriving DecidableEq, Repr

/-- One entry of the Route Table; its step count is the length of `steps` (R17). -/
structure Route where
  loaded : Bool
  tray : Tray
  bin : Bin
  duplex : Bool
  steps : List RouteStep
  deriving DecidableEq, Repr

inductive BinKind | plain | compile
  deriving DecidableEq, Repr

/-- One entry of the Bin Table (R20). -/
structure BinEntry where
  configured : Bool
  kind : BinKind
  deriving DecidableEq, Repr

/-- The eleven timing parameters, in the order of section 2.3. -/
structure Timing where
  tdiv : Nat
  ckSampleUs : Nat
  coverSampleMs : Nat
  stillMs : Nat
  settleMs : Nat
  coverSettleMs : Nat
  runoutLimit : Nat
  misfeedLimit : Nat
  replayHold : Nat
  captureHold : Nat
  setProtection : Nat
  deriving DecidableEq, Repr

inductive PartMode | setup | running
  deriving DecidableEq, Repr

/-- The Path Description Store. Entry 6 of `bins` is BP. -/
structure PathDesc where
  routes : Vector Route 16
  bins : Vector BinEntry 7
  purgeExit : Checkpoint
  trays : Vector Bool 6
  timing : Timing
  mode : PartMode
  deriving DecidableEq, Repr

/-! ## Checkpoint Monitor (03_checkpoint_sensing_and_transport_count.md) -/

inductive EdgeDir | lead | trail
  deriving DecidableEq, Repr

/-- An accepted edge on its way to the Sheet Tracker (R36). -/
structure Edge where
  ck : Checkpoint
  dir : EdgeDir
  stamp : Count
  deriving DecidableEq, Repr

/-- An accepted cover event on its way to the Sheet Tracker and the Recovery Controller (R39). -/
structure CoverEvent where
  cover : Cover
  opened : Bool
  deriving DecidableEq, Repr

inductive StillState | watching | still
  deriving DecidableEq, Repr

/-- The Checkpoint Monitor. `edges`, `coverEvents`, `advances` and `stillDue` hold what it has produced and the
block concerned has not yet taken (log 4); `edges` holds one group for each sample instant that accepted a level, the earliest
first (R36); `advances` holds the new value of TC that each count advance carries, the earliest first (R42). `coverTicks` counts wall ticks since the last cover sample instant or restart
of the cover sample timer. -/
structure Monitor where
  ckHeld : CheckpointLines
  ckLast : Option CheckpointLines
  edges : List (List Edge)
  cvHeld : CoverLines
  cvLast : Option CoverLines
  coverEvents : List CoverEvent
  coverTicks : Nat
  partialCount : Nat
  tc : Count
  advances : List Count
  still : StillState
  stillCount : Nat
  stillDue : Nat
  deriving DecidableEq, Repr

/-! ## Sheet Tracker (04_sheet_tracking.md) -/

/-- The order snapshot of a sheet (R50, R130): the back key on a duplex route, the set number and set-end flag on a route
to the compile bin. -/
structure Snapshot where
  route : RouteNo
  media : Nat
  front : PageKey
  back : Option PageKey
  set : Option (Nat × Bool)
  deriving DecidableEq, Repr

inductive SheetState | admitted | moving | settling | stranded | runout
  deriving DecidableEq, Repr

/-- The next step of a record, or the step of an occupied-list entry (R50). -/
inductive NextStep | step (i : Nat) | purgeExit | purgeDone
  deriving DecidableEq, Repr

/-- One checkpoint a sheet covers (R50). -/
structure Occupied where
  ck : Checkpoint
  step : NextStep
  lead : Count
  base : Count
  deriving DecidableEq, Repr

inductive Sides | none | front | both
  deriving DecidableEq, Repr

/-- A sheet record (R50), with the slot it stands in (R49). -/
structure Sheet where
  slot : Fin 24
  tag : Tag
  seq : Seq
  job : JobSlot
  snap : Snapshot
  feedStamp : Count
  state : SheetState
  next : NextStep
  occupied : List Occupied
  runoutStamp : Option Count
  sides : Sides
  stage : Option Stage
  disposition : Option Disposition
  suspect : Bool
  outOfOrder : Bool
  reissued : Bool
  retries : Nat
  deriving DecidableEq, Repr

inductive PathState | moving | halting | halted | runningOut
  deriving DecidableEq, Repr

/-- A deadline that has expired at a count advance and is not yet handled (R61). Each names what it judged, so that one
whose sheet has moved on is passed over. -/
inductive Expiry
  | lead (tag : Tag) (step : Nat)
  | trail (tag : Tag) (entry : Occupied)
  | runout (tag : Tag) (stamp : Count)
  deriving DecidableEq, Repr

/-- The Sheet Tracker: the records in feed order, the Occupancy levels (1 for covered), the Path State. -/
structure Tracker where
  sheets : List Sheet
  levels : CheckpointLines
  path : PathState
  due : List Expiry
  deriving DecidableEq, Repr

/-! ## Delivery Unit (05_bin_delivery_settling_and_sets.md) -/

/-- A bin record without its stages, which the SETTLING records name (R77). `timer` is none when stopped; some 0 is a
timer that has expired and whose expiry is not yet taken. -/
structure BinRec where
  full : Bool
  lastDelivered : Seq
  timer : Option Nat
  deriving DecidableEq, Repr

/-- One snapshot of the protected list (R86). -/
structure Protected where
  seq : Seq
  job : JobSlot
  snap : Snapshot
  deriving DecidableEq, Repr

/-- The set of the Open Set Record (R86); it is protected while `guarded` holds its list. -/
structure OpenSet where
  bin : Bin
  job : JobSlot
  set : Nat
  before : Seq
  first : Seq
  last : Seq
  count : Nat
  endCompiled : Bool
  guarded : Option (List Protected)
  deriving DecidableEq, Repr

structure Delivery where
  bins : Vector BinRec 6
  openSet : Option OpenSet
  deriving DecidableEq, Repr

/-! ## Page Directory and Band Pool (06_the_page_directory.md) -/

/-- The states of a line that holds a page; a way that is not listed is INVALID (R94). -/
inductive LineState | filling | ready | locked | setheld | released
  deriving DecidableEq, Repr

inductive Retention | none | path | full
  deriving DecidableEq, Repr

/-- A page line (R94). -/
structure Line where
  state : LineState
  key : PageKey
  owner : Option Seq
  chain : List Nat
  bytes : Nat
  cls : Retention
  setTag : Option SetTag
  pin : Bool
  invalidateOnUnpin : Bool
  deriving DecidableEq, Repr

/-- The replacement bits of one set (R95). -/
structure Plru where
  root : Bool
  lower : Bool
  upper : Bool
  deriving DecidableEq, Repr

/-- An active flush walk (R112). -/
structure Walk where
  next : Nat
  includeSets : Bool
  report : Bool
  invalidated : Nat
  buffer : List PageKey
  deriving DecidableEq, Repr

/-- The Page Directory: `lines` lists the ways that are not INVALID, by set * 4 + way, rising. -/
structure Directory where
  lines : List (Nat × Line)
  plru : Vector Plru 64
  keepPath : Bool
  keepSet : Bool
  walk : Option Walk
  latch : Option PageKey
  free : List Nat
  deriving DecidableEq, Repr

/-! ## Capture/Replay Engine (07_band_capture_and_replay.md) -/

/-- A band in the capture writer (section 7.1). -/
structure Band where
  key : PageKey
  index : Nat
  final : Bool
  data : List Byte
  deriving DecidableEq, Repr

/-- A replay or a pending call: one side of one sheet (section 7.2). -/
structure CallReq where
  tag : Tag
  side : Side
  key : PageKey
  deriving DecidableEq, Repr

/-- The reader state; STREAMING holds the current replay, its chain and the next band index (section 7.2). -/
inductive Reader
  | idle
  | streaming (call : CallReq) (chain : List Nat) (next : Nat)
  | draining
  deriving DecidableEq, Repr

/-- The band in the read buffer (R122). -/
structure ReadBand where
  index : Nat
  final : Bool
  data : List Byte
  deriving DecidableEq, Repr

/-- The two requesters of the DRAM port (section 7.3). -/
inductive Holder | capture | replay
  deriving DecidableEq, Repr

/-- The CRE with its arbiter and the attached DRAM; `port` is none when FREE. -/
structure Capture where
  take : Option Band
  write : Option (Band × Nat)
  dram : List Host.Cell
  lengths : List (Nat × Nat)
  reader : Reader
  buffer : Option ReadBand
  pendingCall : Option CallReq
  port : Option Holder
  lastHolder : Option Holder
  captureWaiting : Bool
  replayWaiting : Bool
  run : Nat
  deriving DecidableEq, Repr

/-! ## Order Gate (08_order_admission_and_jobs.md) -/

inductive Origin | path | set | misfeed
  deriving DecidableEq, Repr

/-- An entry of the Order Queue (R130) or of the Reissue List (R134). An Order Queue entry has no origin and a misfeed
retry count of 0 (R51). -/
structure Entry where
  seq : Seq
  job : JobSlot
  snap : Snapshot
  resend : Bool
  origin : Option Origin
  retries : Nat
  deriving DecidableEq, Repr

inductive JobState | free | opened | closing | cancelling
  deriving DecidableEq, Repr

/-- An entry of the Job Context Table (R143). -/
structure Job where
  state : JobState
  id : Nat
  cls : Retention
  orq : Nat
  ril : Nat
  stt : Nat
  set : Nat
  delivered : Nat
  purged : Nat
  removed : Nat
  deriving DecidableEq, Repr

/-- The flags of one tray (R141). -/
structure TrayFlags where
  empty : Bool
  held : Bool
  supplyReported : Bool
  deriving DecidableEq, Repr

/-- The Order Gate. `admitOrigin` is the origin of the entry last admitted, none for one of the Order Queue (R138; log
13). -/
structure Gate where
  orq : List Entry
  ril : List Entry
  jobs : Vector Job 8
  seqCounter : Seq
  tagCounter : Tag
  compileSet : Option SetTag
  interlock : Option Tag
  trays : Vector TrayFlags 6
  admitOrigin : Option Origin
  deriving DecidableEq, Repr

/-! ## Recovery Controller (09_incidents_and_recovery_priority.md, 10_jam_recovery_and_resume.md) -/

/-- The first misfeed of a MISFEED record (R148, R157). -/
structure Misfeed where
  seq : Seq
  tag : Tag
  tray : Tray
  judged : Bool
  deriving DecidableEq, Repr

/-- An open incident record (R148); a CLEAR record is none. `hold` is used by MISFEED and SUPPLY, `misfeed` by MISFEED,
`setPurge` and `runoutDone` (the run-out complete note) by JAM (R163). The phase of a PREEMPTED record is its saved
phase. -/
structure Incident where
  status : IncStatus
  phase : Phase
  first : Cause
  count : Nat
  details : List Detail
  hold : List Obj
  misfeed : Option Misfeed
  setPurge : Bool
  runoutDone : Bool
  deriving DecidableEq, Repr

/-- The Recovery Controller; `stack` has the top frame first. -/
structure Recovery where
  interlock : Option Incident
  jam : Option Incident
  misfeed : Option Incident
  supply : Option Incident
  stack : List IncClass
  coverTimer : Option Nat
  deriving DecidableEq, Repr

/-! ## The part -/

structure State where
  pending : List Instr
  porst : Bool
  li : Link
  pds : PathDesc
  ckm : Monitor
  stk : Tracker
  dlu : Delivery
  pgd : Directory
  cre : Capture
  ogt : Gate
  rcc : Recovery
  deriving DecidableEq, Repr

/-- No event of the manual stops the part, so no step ends in a fault. -/
inductive Fault
  deriving DecidableEq, Repr

/-- Why a command is refused. -/
inductive Refusal
  /-- Raised by exec for a command without a meaning; none is left. Safe: the run stops. -/
  | notModelled (mnemonic : String)
  deriving DecidableEq, Repr

/-! ## Reset values -/

/-- The defaults of the timing parameters (section 2.3, R23). -/
def Timing.default : Timing where
  tdiv := 2
  ckSampleUs := 200
  coverSampleMs := 5
  stillMs := 30
  settleMs := 400
  coverSettleMs := 500
  runoutLimit := 8000
  misfeedLimit := 2
  replayHold := 4
  captureHold := 2
  setProtection := 96

/-- A route entry at power-on: not loaded, no steps (R17). Tray, bin and duplex: DESIGN CHOICE (log 11). -/
def Route.unloaded : Route where
  loaded := false
  tray := 0
  bin := 0
  duplex := false
  steps := []

/-- An idle link (R16). -/
def Link.reset : Link where
  fifo := []
  reply := none
  notices := []
  noticeCounter := 0
  dropped := false
  checkCount := 0
  formatCount := 0
  overrunCount := 0
  upward := []
  uTx := none
  haltPlace := false
  divertQueue := []
  runoutPlace := none
  bandoutPlace := none
  feedPlace := none
  engcmdPlace := none
  eTx := none

/-- Section 2.6, power-on. -/
def PathDesc.reset : PathDesc where
  routes := Vector.replicate 16 Route.unloaded
  bins := Vector.replicate 7 ⟨false, .plain⟩
  purgeExit := 0
  trays := Vector.replicate 6 false
  timing := Timing.default
  mode := .setup

/-- R47. -/
def Monitor.reset : Monitor where
  ckHeld := 0
  ckLast := none
  edges := []
  cvHeld := 0
  cvLast := none
  coverEvents := []
  coverTicks := 0
  partialCount := 0
  tc := 0
  advances := []
  still := .watching
  stillCount := 0
  stillDue := 0

/-- Section 4.14, power-on. -/
def Tracker.reset : Tracker where
  sheets := []
  levels := 0
  path := .halted
  due := []

/-- Section 5.11. -/
def Delivery.reset : Delivery where
  bins := Vector.replicate 6 ⟨false, 0, none⟩
  openSet := none

/-- R116, power-on. -/
def Directory.reset : Directory where
  lines := []
  plru := Vector.replicate 64 ⟨false, false, false⟩
  keepPath := true
  keepSet := true
  walk := none
  latch := none
  free := List.range' 0 Config.blocks

/-- R128; the DRAM and the length records list nothing (log 10). -/
def Capture.reset : Capture where
  take := none
  write := none
  dram := []
  lengths := []
  reader := .idle
  buffer := none
  pendingCall := none
  port := none
  lastHolder := none
  captureWaiting := false
  replayWaiting := false
  run := 0

/-- A FREE job entry after reset (R143); its id and class: DESIGN CHOICE (log 11). -/
def Job.reset : Job where
  state := .free
  id := 0
  cls := .none
  orq := 0
  ril := 0
  stt := 0
  set := 0
  delivered := 0
  purged := 0
  removed := 0

/-- Section 8.6, power-on. -/
def Gate.reset : Gate where
  orq := []
  ril := []
  jobs := Vector.replicate 8 Job.reset
  seqCounter := 1
  tagCounter := 0
  compileSet := none
  interlock := none
  trays := Vector.replicate 6 ⟨false, false, false⟩
  admitOrigin := none

/-- R162. -/
def Recovery.reset : Recovery where
  interlock := none
  jam := none
  misfeed := none
  supply := none
  stack := []
  coverTimer := none

/-- The part right after PORST is released (R16, R47 and the reset tables of the chapters). -/
def State.reset : State where
  pending := []
  porst := false
  li := Link.reset
  pds := PathDesc.reset
  ckm := Monitor.reset
  stk := Tracker.reset
  dlu := Delivery.reset
  pgd := Directory.reset
  cre := Capture.reset
  ogt := Gate.reset
  rcc := Recovery.reset

end Sys2Proof.Machine
end

