-- ==== Sys2Proof/Machine/Ops.lean ====
section
/-!
DEFINITION. Machine/Ops.lean: the shared operations on plain data (sparse tables, the retention DRAM, fixed tables), on the
blocks of State, and on the Link Interface (posting, answering, transmitting, discarding). What takes an exception on a
processor has its counterpart in Recovery.lean (an occurrence opening an incident).
-/
namespace Sys2Proof.Machine

/-! ## Sparse tables: (number, value) pairs, numbers strictly rising -/

/-- The value listed for a number. -/
def Cells.find {α : Type} : List (Nat × α) → Nat → Option α
  | [], _ => none
  | (k, v) :: m, a => if a = k then some v else Cells.find m a

/-- List a value for a number, in place of one already listed. -/
def Cells.put {α : Type} : List (Nat × α) → Nat → α → List (Nat × α)
  | [], a, v => [(a, v)]
  | (k, w) :: m, a, v =>
    if a < k then (a, v) :: (k, w) :: m
    else if a = k then (a, v) :: m
    else (k, w) :: Cells.put m a v

/-- List nothing for a number. -/
def Cells.erase {α : Type} : List (Nat × α) → Nat → List (Nat × α)
  | [], _ => []
  | (k, w) :: m, a => if a = k then m else (k, w) :: Cells.erase m a

/-- The numbers rise strictly. -/
abbrev Cells.Rising {α : Type} (m : List (Nat × α)) : Prop := m.Pairwise fun p q => p.1 < q.1

/-! ## Retention DRAM (R115, R118) -/

/-- What an unlisted byte of the DRAM reads as: DESIGN CHOICE (log 10). -/
def Memory.unlisted : Byte := 0

/-- The canonical form: addresses strictly rising, no entry equal to what an unlisted address reads as. -/
abbrev Memory.wf (m : List Host.Cell) : Prop := Cells.Rising m ∧ ∀ c ∈ m, c.2 ≠ Memory.unlisted

/-- One byte of the DRAM. -/
def Memory.read (m : List Host.Cell) (a : Nat) : Byte := (Cells.find m a).getD Memory.unlisted

/-- Write one byte, keeping the canonical form. -/
def Memory.write (m : List Host.Cell) (a : Nat) (v : Byte) : List Host.Cell :=
  if v = Memory.unlisted then Cells.erase m a else Cells.put m a v

/-- `n` bytes from an address on. -/
def Memory.readRun (m : List Host.Cell) (a n : Nat) : List Byte := (List.range' a n).map (Memory.read m)

/-- Write bytes from an address on. -/
def Memory.writeRun (m : List Host.Cell) : Nat → List Byte → List Host.Cell
  | _, [] => m
  | a, b :: bs => Memory.writeRun (Memory.write m a b) (a + 1) bs

/-- The address of the first byte of a block (R115). -/
def blockBase (block : Nat) : Nat := block * Config.blockBytes

/-! ## Fixed tables -/

/-- Change one entry of a fixed table. -/
def upd {α : Type} {n : Nat} (v : Vector α n) (i : Fin n) (f : α → α) : Vector α n := v.set i (f v[i])

/-- Set one line of a group to a level. -/
def setLine {n : Nat} (v : BitVec n) (i : Fin n) (level : Bool) : BitVec n :=
  if level then v ||| (1#n <<< i.val) else v &&& ~~~(1#n <<< i.val)

/-! ## The blocks of State -/

def State.onLi (f : Link → Link) (s : State) : State := { s with li := f s.li }
def State.onPds (f : PathDesc → PathDesc) (s : State) : State := { s with pds := f s.pds }
def State.onCkm (f : Monitor → Monitor) (s : State) : State := { s with ckm := f s.ckm }
def State.onStk (f : Tracker → Tracker) (s : State) : State := { s with stk := f s.stk }
def State.onDlu (f : Delivery → Delivery) (s : State) : State := { s with dlu := f s.dlu }
def State.onPgd (f : Directory → Directory) (s : State) : State := { s with pgd := f s.pgd }
def State.onCre (f : Capture → Capture) (s : State) : State := { s with cre := f s.cre }
def State.onOgt (f : Gate → Gate) (s : State) : State := { s with ogt := f s.ogt }
def State.onRcc (f : Recovery → Recovery) (s : State) : State := { s with rcc := f s.rcc }

/-! ## Transmitters (R11, R12) -/

/-- The free U-port transmitter begins the first of REPLY, NOTICE, ENGSTAT that waits (R11). -/
def Link.startU (l : Link) : Link :=
  match l.uTx, l.reply, l.notices, l.upward with
  | some _, _, _, _ => l
  | none, some r, _, _ => { l with reply := none, uTx := some (.reply r) }
  | none, none, n :: ns, _ => { l with notices := ns, uTx := some (.notice n) }
  | none, none, [], f :: fs => { l with upward := fs, uTx := some (.engstat f) }
  | none, none, [], [] => l

/-- The free E-port transmitter begins the first of HALT, DIVERT, RUNOUT, BANDOUT, FEED, ENGCMD that waits (R12). -/
def Link.startE (l : Link) : Link :=
  match l.eTx with
  | some _ => l
  | none =>
    if l.haltPlace then { l with haltPlace := false, eTx := some .halt }
    else match l.divertQueue, l.runoutPlace, l.bandoutPlace, l.feedPlace, l.engcmdPlace with
      | t :: ts, _, _, _, _ => { l with divertQueue := ts, eTx := some (.divert t) }
      | [], some r, _, _, _ => { l with runoutPlace := none, eTx := some (.runout r) }
      | [], none, some b, _, _ => { l with bandoutPlace := none, eTx := some (.bandout b) }
      | [], none, none, some f, _ => { l with feedPlace := none, eTx := some (.feed f) }
      | [], none, none, none, some c => { l with engcmdPlace := none, eTx := some (.engcmd c) }
      | [], none, none, none, none => l

/-! ## Notices, replies, passed status (R2, R6, R9, R10) -/

/-- Post a notice: it takes the next number and joins the queue, or is dropped when 32 wait (R10). -/
def Link.post (n : Notice) (l : Link) : Link :=
  let p : Posted := ⟨l.noticeCounter, n⟩
  let l := { l with noticeCounter := l.noticeCounter + 1 }
  if l.notices.length < Config.noticePlaces then Link.startU { l with notices := l.notices ++ [p] }
  else { l with dropped := true }

/-- Put a reply in the reply place (R6, R7). -/
def Link.answer (r : Reply) (l : Link) : Link := Link.startU { l with reply := some r }

/-- A 16-bit discard count stays at 65535 (R2). -/
def raise16 (c : Half) : Half := if c = 65535 then c else c + 1

/-- Count and report a frame judged CHECK (R2). -/
def Link.discardCheck (port : Port) (kind : Byte) (l : Link) : Link :=
  let c := raise16 l.checkCount
  Link.post (.linkDiscard .check port kind c) { l with checkCount := c }

/-- Count and report a frame judged FORMAT (R2). -/
def Link.discardFormat (port : Port) (kind : Byte) (l : Link) : Link :=
  let c := raise16 l.formatCount
  Link.post (.linkDiscard .format port kind c) { l with formatCount := c }

/-- Count and report a frame judged OVERRUN (R2). -/
def Link.discardOverrun (port : Port) (kind : Byte) (l : Link) : Link :=
  let c := raise16 l.overrunCount
  Link.post (.linkDiscard .overrun port kind c) { l with overrunCount := c }

/-- An ENGSTAT joins the upward status queue, or its copy is OVERRUN when 8 wait (R9). -/
def Link.passUp (f : Frame) (l : Link) : Link :=
  if l.upward.length < Config.statusPlaces then Link.startU { l with upward := l.upward ++ [f] }
  else l.discardOverrun .e f.kind

/-- A good U-port frame joins the input FIFO, or is OVERRUN when both places are full (R3). -/
def Link.enter (f : Frame) (l : Link) : Link :=
  if l.fifo.length < Config.fifoPlaces then { l with fifo := l.fifo ++ [f] }
  else l.discardOverrun .u f.kind

/-! ## Waiting places of the E-port (R12) -/

/-- Place a HALT; one that already waits answers for both requests (R12). -/
def Link.placeHalt (l : Link) : Link := Link.startE { l with haltPlace := true }
def Link.placeDivert (t : Tag) (l : Link) : Link := Link.startE { l with divertQueue := l.divertQueue ++ [t] }
def Link.placeRunout (r : List (Tag × Dest)) (l : Link) : Link := Link.startE { l with runoutPlace := some r }
def Link.placeBandout (b : BandOut) (l : Link) : Link := Link.startE { l with bandoutPlace := some b }
def Link.placeFeed (f : Feed) (l : Link) : Link := Link.startE { l with feedPlace := some f }
def Link.placeEngcmd (c : Frame) (l : Link) : Link := Link.startE { l with engcmdPlace := some c }

/-- Post a notice (R10). -/
def post (n : Notice) (s : State) : State := s.onLi (Link.post n)

end Sys2Proof.Machine
end

