-- ==== Sys2Proof/Machine/Operands.lean ====
section
/-!
DEFINITION. Machine/Operands.lean: how bytes are read: the frame envelope with its CRC and the judgement of a reception
(R1, R182, R183), and the fields of ORDER, BAND, CALL, ENGSTAT and MGMT bodies (12_frame_and_record_formats.md). Multi-byte
fields stand most significant byte first.
-/
namespace Sys2Proof.Machine

/-! ## Fields -/

/-- The byte at an offset of a body. -/
def byteAt (body : List Byte) (i : Nat) : Nat := (body.getD i 0).toNat

def halfAt (body : List Byte) (i : Nat) : Nat := byteAt body i * 256 + byteAt body (i + 1)

/-- A page number, three bytes. -/
def pageAt (body : List Byte) (i : Nat) : Nat := byteAt body i * 65536 + halfAt body (i + 1)

/-- The index a coded byte names, if it names one of `n`. -/
def index? (n x : Nat) : Option (Fin n) := if h : x < n then some ⟨x, h⟩ else none

/-- A job slot, from a byte checked to be 0 to 7 (R183). -/
def jobAt (body : List Byte) (i : Nat) : JobSlot := ⟨byteAt body i % 8, Nat.mod_lt _ (by decide)⟩

/-! ## CRC (section 12.1) -/

/-- One bit of the generator x^16 + x^12 + x^5 + 1. -/
def crcBit (r : Half) : Half := if r.msb then (r <<< 1) ^^^ 0x1021 else r <<< 1

/-- One byte, most significant bit first. -/
def crcByte (r : Half) (b : Byte) : Half :=
  let r := r ^^^ (b.setWidth 16 <<< 8)
  crcBit (crcBit (crcBit (crcBit (crcBit (crcBit (crcBit (crcBit r)))))))

/-- The register is preset to FFFFh and not inverted. -/
def crc16 (bytes : List Byte) : Half := bytes.foldl crcByte 0xFFFF

/-- The two bytes of a 16-bit number. -/
def bytes2 (n : Nat) : List Byte := [BitVec.ofNat 8 (n / 256), BitVec.ofNat 8 n]

/-- The CRC over kind, length and body. -/
def frameCrc (kind : Byte) (body : List Byte) : Half := crc16 (kind :: bytes2 body.length ++ body)

/-- A frame the SRC-24 makes, with a fresh CRC. -/
def Frame.make (kind : Byte) (body : List Byte) : Frame := ⟨kind, body, frameCrc kind body⟩

/-! ## Kinds (R182) -/

def kindOrder : Byte := 0x01
def kindBand : Byte := 0x02
def kindMgmt : Byte := 0x03
def kindEngcmd : Byte := 0x04
def kindReply : Byte := 0x81
def kindNotice : Byte := 0x82
def kindEngstat : Byte := 0x83
def kindFeed : Byte := 0x41
def kindBandout : Byte := 0x42
def kindHalt : Byte := 0x43
def kindRunout : Byte := 0x44
def kindDivert : Byte := 0x45
def kindCall : Byte := 0xC1

/-- The inbound kinds of a port (section 1.1). -/
def inbound (port : Port) (kind : Byte) : Bool :=
  match port with
  | .u => decide (kind = kindOrder ∨ kind = kindBand ∨ kind = kindMgmt ∨ kind = kindEngcmd)
  | .e => decide (kind = kindCall ∨ kind = kindEngstat)

/-- The legal body length of an inbound kind (R182). -/
def legalLength (kind : Byte) (n : Nat) : Bool :=
  if kind = kindOrder then decide (n = 17)
  else if kind = kindBand then decide (7 ≤ n ∧ n ≤ 32774)
  else if kind = kindMgmt then decide (3 ≤ n ∧ n ≤ 129)
  else if kind = kindEngcmd then decide (1 ≤ n ∧ n ≤ 512)
  else if kind = kindEngstat then decide (1 ≤ n ∧ n ≤ 256)
  else if kind = kindCall then decide (n = 3)
  else false

/-- The format ranges of a body (R183). -/
def formatOk (kind : Byte) (body : List Byte) : Bool :=
  if kind = kindOrder then
    decide (byteAt body 2 < 8 ∧ byteAt body 3 < 16 ∧ byteAt body 10 ≤ 2 ∧ byteAt body 14 ≤ 3)
  else if kind = kindBand then decide (byteAt body 0 < 8 ∧ byteAt body 4 ≤ 127 ∧ byteAt body 5 ≤ 1)
  else if kind = kindCall then decide (byteAt body 2 = 1 ∨ byteAt body 2 = 2)
  else true

/-- The judgement of a reception (R1). -/
inductive Verdict
  | check (kind : Byte) | format (kind : Byte) | good (f : Frame)
  deriving DecidableEq, Repr

/-- R1: the kind is tested as soon as it is complete, the length as soon as it is complete; a frame that a start delimiter
interrupts is CHECK; then the CRC and the format ranges. Bytes after the CRC belong to no frame (section 1.1). -/
def judge (port : Port) (bytes : List Byte) : Verdict :=
  match bytes with
  | [] => .check 0
  | kind :: rest =>
    if inbound port kind then
      match rest with
      | hi :: lo :: tail =>
        let n := hi.toNat * 256 + lo.toNat
        if legalLength kind n then
          let body := tail.take n
          if tail.length < n + 2 then .check kind
          else if halfAt tail n = (frameCrc kind body).toNat then
            if formatOk kind body then .good ⟨kind, body, frameCrc kind body⟩ else .format kind
          else .check kind
        else .format kind
      | _ => .check kind
    else .format kind

/-! ## ORDER, BAND, CALL (section 12.2, 12.3) -/

/-- The back page of an ORDER: none, a page number, or IMPLIED. -/
inductive BackPage | none | number (n : Nat) | implied
  deriving DecidableEq, Repr

/-- The fields of an ORDER body. -/
structure OrderBody where
  jobId : Nat
  job : JobSlot
  route : RouteNo
  media : Nat
  front : Nat
  back : BackPage
  setPresent : Bool
  setEnd : Bool
  set : Nat
  deriving DecidableEq, Repr

def orderBody (b : List Byte) : OrderBody where
  jobId := halfAt b 0
  job := jobAt b 2
  route := ⟨byteAt b 3 % 16, Nat.mod_lt _ (by decide)⟩
  media := halfAt b 4
  front := pageAt b 7
  back := if byteAt b 10 = 0 then .none else if byteAt b 10 = 1 then .number (pageAt b 11) else .implied
  setPresent := byteAt b 14 % 2 = 1
  setEnd := byteAt b 14 / 2 % 2 = 1
  set := halfAt b 15

/-- The band a BAND frame carries. -/
def bandBody (b : List Byte) : Band where
  key := ⟨jobAt b 0, pageAt b 1⟩
  index := byteAt b 4
  final := byteAt b 5 = 1
  data := b.drop 6

/-- The tag and side of a CALL. -/
def callBody (b : List Byte) : Tag × Side :=
  (BitVec.ofNat 16 (halfAt b 0), if byteAt b 2 = 1 then .front else .back)

/-! ## ENGSTAT (section 12.3) -/

/-- What a block reads from an ENGSTAT (R9). -/
inductive Status
  | trayEmpty (t : Tray) | trayFilled (t : Tray) | binFull (b : Bin) | binCleared (b : Bin) | setEjected (b : Bin)
  | compileFault (b : Bin) | engineFault (code : List Byte)
  deriving DecidableEq, Repr

/-- The tray or bin byte of an ENGSTAT, if there is one and it names a tray T0–T5 or a bin B0–B5. -/
def statusField (fields : List Byte) : Option (Fin 6) :=
  match fields with
  | [] => none
  | n :: _ => index? 6 n.toNat

/-- The status an ENGSTAT body carries; none for one that R9 passes up unread whatever the Bin Table holds. -/
def statusOf (body : List Byte) : Option Status :=
  match body with
  | [] => none
  | kind :: fields =>
    if kind = 1 then (statusField fields).map .trayEmpty
    else if kind = 2 then (statusField fields).map .trayFilled
    else if kind = 3 then (statusField fields).map .binFull
    else if kind = 4 then (statusField fields).map .binCleared
    else if kind = 5 then (statusField fields).map .setEjected
    else if kind = 6 then (statusField fields).map .compileFault
    else if kind = 7 then some (.engineFault fields)
    else none

/-! ## MGMT (section 12.4) -/

/-- A MGMT body: the request code, the request tag, and the whole body, whose fields are named by offset. -/
structure Request where
  code : Nat
  tag : Half
  body : List Byte
  deriving DecidableEq, Repr

def requestOf (b : List Byte) : Request := ⟨byteAt b 0, BitVec.ofNat 16 (halfAt b 1), b⟩

def codeReadStatus : Nat := 0x01
def codeResetPart : Nat := 0x02
def codeLoadRoute : Nat := 0x10
def codeLoadBin : Nat := 0x11
def codeLoadTray : Nat := 0x12
def codeSetTiming : Nat := 0x13
def codeStart : Nat := 0x14
def codeStop : Nat := 0x15
def codeReadSheets : Nat := 0x20
def codeReadBin : Nat := 0x28
def codeSetRetentionMode : Nat := 0x30
def codeInquirePage : Nat := 0x31
def codeDropPage : Nat := 0x32
def codeFlush : Nat := 0x33
def codeOpenJob : Nat := 0x40
def codeCloseJob : Nat := 0x41
def codeCancelJob : Nat := 0x42
def codeTrayReady : Nat := 0x43
def codeReadQueues : Nat := 0x44
def codeReadIncidents : Nat := 0x50
def codeConfirmClear : Nat := 0x51

/-- The body length of each known request (R184); LOAD ROUTE's follows its own step count, 0 to 12. none: unknown code. -/
def requestLengthOk (q : Request) : Option Bool :=
  let n := q.body.length
  if q.code = codeReadStatus then some (n = 4)
  else if q.code = codeResetPart then some (n = 3)
  else if q.code = codeLoadRoute then some (9 ≤ n ∧ byteAt q.body 8 ≤ 12 ∧ n = 9 + 10 * byteAt q.body 8)
  else if q.code = codeLoadBin then some (n = 7)
  else if q.code = codeLoadTray then some (n = 5)
  else if q.code = codeSetTiming then some (n = 18)
  else if q.code = codeStart then some (n = 3)
  else if q.code = codeStop then some (n = 3)
  else if q.code = codeReadSheets then some (n = 3)
  else if q.code = codeReadBin then some (n = 4)
  else if q.code = codeSetRetentionMode then some (n = 5)
  else if q.code = codeInquirePage then some (n = 7)
  else if q.code = codeDropPage then some (n = 7)
  else if q.code = codeFlush then some (n = 5)
  else if q.code = codeOpenJob then some (n = 6)
  else if q.code = codeCloseJob then some (n = 5)
  else if q.code = codeCancelJob then some (n = 5)
  else if q.code = codeTrayReady then some (n = 4)
  else if q.code = codeReadQueues then some (n = 3)
  else if q.code = codeReadIncidents then some (n = 3)
  else if q.code = codeConfirmClear then some (n = 3)
  else none

/-- A yes/no option: any value other than 0 means yes (R184). -/
def optionAt (b : List Byte) (i : Nat) : Bool := byteAt b i ≠ 0

/-- A coded yes/no field; none for a value outside 0 and 1 (R184). -/
def yesNoAt (b : List Byte) (i : Nat) : Option Bool :=
  if byteAt b i = 0 then some false else if byteAt b i = 1 then some true else none

end Sys2Proof.Machine
end

