-- ==== Sys2Proof/Machine/Flags.lean ====
section
/-!
DEFINITION. Machine/Flags.lean: every condition and derived view that the rules compute from the state: U-HOLD, the count
comparisons of R43, occupants, stages and freezes, the gate head, wanted pages, retention classes, blocking checkpoints.
-/
namespace Sys2Proof.Machine

/-- U-HOLD (R4): asserted while both FIFO places are full, and while PORST is asserted. -/
def State.uHold (s : State) : Bool := s.porst || decide (Config.fifoPlaces ≤ s.li.fifo.length)

/-! ## Counts (R43) -/

/-- The elapsed count since a stamp. -/
def elapsed (stamp now : Count) : Nat := (now - stamp).toNat

/-- An offset after a stamp is reached. -/
def reached (stamp now : Count) (offset : Nat) : Bool :=
  decide (offset ≤ elapsed stamp now ∧ elapsed stamp now < 2 ^ 31)

/-- A deadline expires at the advance that makes the elapsed count one more than its offset. -/
def expiresAt (stamp now : Count) (offset : Nat) : Bool := decide (elapsed stamp now = offset + 1)

/-! ## Routes and bins (R17, R20) -/

def State.route (s : State) (n : RouteNo) : Route := s.pds.routes[n]

/-- The index of the divert-last step. -/
def Route.divertIndex (r : Route) : Nat := r.steps.findIdx (·.divertLast)

/-- The trail tolerance of the step an entry was matched at; for PURGE EXIT that of the divert-last step (R59). -/
def Route.tolerance (r : Route) : NextStep → Nat
  | .step i => (r.steps[i]?.map (·.tolerance)).getD 0
  | .purgeExit | .purgeDone => (r.steps[r.divertIndex]?.map (·.tolerance)).getD 0

def isCompile (s : State) (b : Bin) : Bool :=
  let e := s.pds.bins[b.val]
  e.configured && decide (e.kind = .compile)

/-- The bin configured with kind COMPILE; at most one (R20). -/
def compileBin (s : State) : Option Bin := (List.finRange 6).find? (isCompile s)

/-- The checkpoints of the exit steps of a route. -/
def Route.exits (r : Route) : List Checkpoint := (r.steps.filter (·.isExit)).map (·.ck)

/-- Whether a checkpoint is an exit checkpoint of a bin B0–B5 (R20). -/
def isExitOf (p : PathDesc) (b : Bin) (ck : Checkpoint) : Bool :=
  p.routes.toList.any fun r => r.loaded && decide (r.bin = b) && r.exits.contains ck

/-! ## Sheets (R50, R54, R72, R77) -/

def State.sheet? (s : State) (t : Tag) : Option Sheet := s.stk.sheets.find? (·.tag = t)

def State.routeOf (s : State) (r : Sheet) : Route := s.route r.snap.route

def State.binOf (s : State) (r : Sheet) : Bin := (s.routeOf r).bin

/-- The occupant of a checkpoint: the sheet whose occupied list holds it (R54). -/
def State.occupant (s : State) (ck : Checkpoint) : Option Sheet :=
  s.stk.sheets.find? fun r => r.occupied.any (·.ck = ck)

/-- A sheet's route is complete when its next step equals the step count (R50). -/
def routeComplete (rt : Route) (r : Sheet) : Bool := decide (r.next = .step rt.steps.length)

/-- A sheet is past its divert-last step when its next step is greater than that step's index plus one (R72). -/
def pastDivert (rt : Route) (r : Sheet) : Bool :=
  match r.next with
  | .step i => decide (rt.divertIndex + 1 < i)
  | .purgeExit | .purgeDone => false

/-- The course of a PURGE record: beyond its divert-last step, PURGE EXIT is next (R72). -/
def purgeCourse (rt : Route) : NextStep → NextStep
  | .step i => if rt.divertIndex < i then .purgeExit else .step i
  | .purgeExit => .purgeExit
  | .purgeDone => .purgeDone

/-- The checkpoint a sheet expects next (R59, R72). -/
def State.expected (s : State) (r : Sheet) : Option Checkpoint :=
  match r.state with
  | .admitted | .moving =>
    match r.next with
    | .step i => ((s.routeOf r).steps[i]?).map (·.ck)
    | .purgeExit | .purgeDone => none
  | .runout =>
    match r.next with
    | .step i => ((s.routeOf r).steps[i]?).map (·.ck)
    | .purgeExit => some s.pds.purgeExit
    | .purgeDone => none
  | .settling | .stranded => none

/-- The sheet in a stage of a bin's Settle Queue (R77). -/
def State.staged (s : State) (b : Bin) (st : Stage) : Option Sheet :=
  s.stk.sheets.find? fun r => decide (r.state = .settling ∧ r.stage = some st ∧ s.binOf r = b)

def State.queueEmpty (s : State) (b : Bin) : Bool := (s.staged b .a).isNone && (s.staged b .b).isNone

/-- A Settle Queue is frozen while either stage holds a suspect sheet (R83). -/
def State.frozen (s : State) (b : Bin) : Bool :=
  ((s.staged b .a).map (·.suspect)).getD false || ((s.staged b .b).map (·.suspect)).getD false

/-- The high mark of a bin (R77). -/
def State.highMark (s : State) (b : Bin) : Seq :=
  max s.dlu.bins[b].lastDelivered (max (((s.staged b .a).map (·.seq)).getD 0) (((s.staged b .b).map (·.seq)).getD 0))

/-- Whether a sequence's sheet is settling (R92). -/
def State.settling (s : State) (q : Seq) : Bool :=
  s.stk.sheets.any fun r => decide (r.state = .settling ∧ r.seq = q)

/-! ## Gate (R135, R141) -/

/-- The gate head (R135). -/
def Gate.head (g : Gate) : Option Entry :=
  match g.ril with
  | e :: _ => some e
  | [] => g.orq.head?

inductive TrayState | ready | empty | held
  deriving DecidableEq, Repr

def TrayFlags.state (f : TrayFlags) : TrayState :=
  if f.held then .held else if f.empty then .empty else .ready

/-- The page keys of a snapshot, front first. -/
def Snapshot.keys (n : Snapshot) : List PageKey := n.front :: n.back.toList

def Snapshot.refers (n : Snapshot) (k : PageKey) : Bool := n.keys.contains k

/-- Whether an INTERLOCK or JAM record is open (R136, R138). -/
def Recovery.holdsPath (r : Recovery) : Bool := r.interlock.isSome || r.jam.isSome

/-! ## Page Directory (R94, R97, R98, R101) -/

def setOf (k : PageKey) : Nat := k.page % Config.sets

/-- The line a page is present in: a way of its set that holds its key (R94). -/
def Directory.lookup (d : Directory) (k : PageKey) : Option (Nat × Line) :=
  d.lines.find? fun p => decide (p.1 / Config.ways = setOf k ∧ p.2.key = k)

def Directory.stateOf (d : Directory) (k : PageKey) : Option LineState := (d.lookup k).map (·.2.state)

/-- The class of the retention mode pair (R97). -/
def Directory.pairClass (d : Directory) : Retention :=
  if d.keepSet then .full else if d.keepPath then .path else .none

def Retention.level : Retention → Nat
  | .none => 0
  | .path => 1
  | .full => 2

/-- The class of the job slot; FULL when its entry is FREE (R98). -/
def Gate.jobClass (g : Gate) (j : JobSlot) : Retention :=
  if g.jobs[j].state = .free then .full else g.jobs[j].cls

/-- The effective class of a page: the lower of its job class and the pair's class (R98). -/
def effectiveClass (s : State) (k : PageKey) : Retention :=
  let jc := s.ogt.jobClass k.job
  if jc.level ≤ s.pgd.pairClass.level then jc else s.pgd.pairClass

/-- Whether a sequence is held by a record of the Sheet Tracking Table. -/
def State.inPath (s : State) (q : Seq) : Bool := s.stk.sheets.any (·.seq = q)

/-- Present in a READY or LOCKED line (R101, R136). -/
def Directory.usable (d : Directory) (k : PageKey) : Bool :=
  decide (d.stateOf k = some .ready ∨ d.stateOf k = some .locked)

/-- A page is wanted when the gate head references it and it is not in a READY or LOCKED line (R101). -/
def wanted (s : State) (k : PageKey) : Bool :=
  match s.ogt.head with
  | some e => e.snap.refers k && !s.pgd.usable k
  | none => false

/-- A line is displaceable on behalf of the gate head (R101). -/
def displaceable (s : State) (l : Line) : Bool :=
  decide (l.state = .ready ∨ l.state = .locked) && !l.pin &&
    match l.owner, s.ogt.head with
    | none, _ => true
    | some q, some e => !s.inPath q && decide (e.seq < q)
    | some _, none => false

/-- A page is missing when it is absent or RELEASED (R140). -/
def missing (s : State) (k : PageKey) : Bool :=
  decide (s.pgd.stateOf k = none ∨ s.pgd.stateOf k = some .released)

/-- A key is referenced by an entry, a record or the protected list, or its line is LOCKED or SETHELD (R132). -/
def referenced (s : State) (k : PageKey) : Bool :=
  s.ogt.orq.any (·.snap.refers k) || s.ogt.ril.any (·.snap.refers k) || s.stk.sheets.any (·.snap.refers k) ||
  (match s.dlu.openSet with
    | some o => (o.guarded.getD []).any (·.snap.refers k)
    | none => false) ||
  decide (s.pgd.stateOf k = some .locked ∨ s.pgd.stateOf k = some .setheld)

/-! ## Recovery (R148, R165, R168) -/

def IncClass.level : IncClass → Nat
  | .interlock => 0
  | .jam => 1
  | .misfeed => 2
  | .supply => 3

/-- The record of a class; none when CLEAR. -/
def Recovery.get (r : Recovery) : IncClass → Option Incident
  | .interlock => r.interlock
  | .jam => r.jam
  | .misfeed => r.misfeed
  | .supply => r.supply

def Recovery.set (r : Recovery) (c : IncClass) (i : Option Incident) : Recovery :=
  match c with
  | .interlock => { r with interlock := i }
  | .jam => { r with jam := i }
  | .misfeed => { r with misfeed := i }
  | .supply => { r with supply := i }

/-- The classes in level order, most urgent first. -/
def IncClass.all : List IncClass := [.interlock, .jam, .misfeed, .supply]

def Recovery.statusOf (r : Recovery) (c : IncClass) : Option IncStatus := (r.get c).map (·.status)

/-- The class of the ACTIVE record. -/
def Recovery.active (r : Recovery) : Option IncClass := IncClass.all.find? fun c => r.statusOf c = some .active

/-- The highest-priority PENDING record. -/
def Recovery.firstPending (r : Recovery) : Option IncClass := IncClass.all.find? fun c => r.statusOf c = some .pending

/-- The record of a class is ACTIVE in a phase (R154). -/
def Recovery.activeIn (r : Recovery) (c : IncClass) (p : Phase) : Bool :=
  match r.get c with
  | some i => decide (i.status = .active ∧ i.phase = p)
  | none => false

def setPurge (s : State) : Bool := (s.rcc.jam.map (·.setPurge)).getD false

def cancelling (s : State) (j : JobSlot) : Bool := decide (s.ogt.jobs[j].state = .cancelling)

/-- The sides are complete (R165): BOTH for a duplex route, FRONT or BOTH for a simplex route. -/
def sidesComplete (rt : Route) (r : Sheet) : Bool :=
  match r.sides with
  | .both => true
  | .front => !rt.duplex
  | .none => false

/-- The zone of the last matched step; none for a sheet that has matched none (R165). -/
def lastZone (rt : Route) (r : Sheet) : Option Zone :=
  match r.next with
  | .step (i + 1) => (rt.steps[i]?).map (·.zone)
  | .step 0 => none
  | .purgeExit | .purgeDone => (rt.steps[rt.divertIndex]?).map (·.zone)

/-- A blocking checkpoint (section 10.4): covered, with no occupant or a MANUAL one. -/
def blocking (s : State) (ck : Checkpoint) : Bool :=
  s.stk.levels.getLsbD ck &&
    match s.occupant ck with
    | none => true
    | some r => decide (r.disposition = some .manual)

/-- The blocking checkpoints in number order, each with its occupant's tag (R168). -/
def blockingList (s : State) : List (Checkpoint × Option Tag) :=
  ((List.finRange 24).filter (blocking s)).map fun ck => (ck, (s.occupant ck).map (·.tag))

end Sys2Proof.Machine
end

