-- ==== Sys2Proof/Machine/Encode.lean ====
section
/-!
DEFINITION. Machine/Encode.lean: the bytes of replies, notices and outbound frames (12_frame_and_record_formats.md, R182 to
R185). A field that its rule allows to be absent carries one presence byte; a list carries its count (logs 15 to 17).
-/
namespace Sys2Proof.Machine

/-! ## Numbers, options, lists (R185) -/

def num1 (n : Nat) : List Byte := [BitVec.ofNat 8 n]
def num3 (n : Nat) : List Byte := BitVec.ofNat 8 (n / 65536) :: bytes2 n
def num4 (n : Nat) : List Byte := bytes2 (n / 65536) ++ bytes2 n
def half (h : Half) : List Byte := bytes2 h.toNat
def count4 (c : Count) : List Byte := num4 c.toNat
def yesNo (b : Bool) : List Byte := num1 b.toNat

def opt {α : Type} (f : α → List Byte) : Option α → List Byte
  | none => [0]
  | some a => 1 :: f a

def listed {α : Type} (f : α → List Byte) (l : List α) : List Byte := num1 l.length ++ l.flatMap f

def key4 (k : PageKey) : List Byte := num1 k.job ++ num3 k.page

/-! ## Codes (sections 12.1 to 12.4) -/

def portCode : Port → Nat | .u => 0 | .e => 1
def sideCode : Side → Nat | .front => 1 | .back => 2
def ReplyCode.code : ReplyCode → Nat
  | .done => 0 | .refusedUnknown => 1 | .refusedMode => 2 | .refusedBusy => 3 | .refusedFull => 4
  | .refusedInvalid => 5 | .refusedState => 6
def DiscardReason.code : DiscardReason → Nat
  | .check => 1 | .format => 2 | .overrun => 3 | .mode => 4 | .retentionFull => 5 | .gap => 6 | .duplicate => 7
def OrderRefusal.code : OrderRefusal → Nat | .mode => 1 | .job => 2 | .invalid => 3 | .full => 4
def IncStatus.code : Option IncStatus → Nat
  | none => 0 | some .pending => 1 | some .active => 2 | some .preempted => 3
def Phase.code : Phase → Nat
  | .opened => 1 | .shutWait => 2 | .stop => 3 | .assess => 4 | .clearance => 5 | .dispose => 6 | .runout => 7
  | .rebuild => 8 | .retry => 9 | .trayHold => 10 | .hold => 11
def Cause.code : Cause → Nat
  | .coverOpen => 1 | .late => 2 | .early => 3 | .phantom => 4 | .stuck => 5 | .trailFault => 6 | .sequence => 7
  | .stopStrand => 8 | .engine => 9 | .compile => 10 | .callFault => 11 | .misfeed => 12 | .trayEmpty => 13
  | .binFull => 14
def Disposition.code : Disposition → Nat | .deliver => 1 | .purge => 2 | .manual => 3
def Stage.code : Stage → Nat | .a => 1 | .b => 2
def RemoveReason.code : RemoveReason → Nat | .suspect => 1 | .outOfOrder => 2 | .compileTray => 3
def PartMode.code : PartMode → Nat | .setup => 0 | .running => 1
def PathState.code : PathState → Nat | .moving => 0 | .halting => 1 | .halted => 2 | .runningOut => 3
def SheetState.code : SheetState → Nat
  | .admitted => 0 | .moving => 1 | .settling => 2 | .stranded => 3 | .runout => 4
def NextStep.code : NextStep → Nat | .step i => i | .purgeExit => 254 | .purgeDone => 255
def Sides.code : Sides → Nat | .none => 0 | .front => 1 | .both => 2
def LineState.code : LineState → Nat | .filling => 1 | .ready => 2 | .locked => 3 | .setheld => 4 | .released => 5
def Origin.code : Origin → Nat | .path => 1 | .set => 2 | .misfeed => 3
def JobState.code : JobState → Nat | .free => 0 | .opened => 1 | .closing => 2 | .cancelling => 3
def TrayState.code : TrayState → Nat | .ready => 0 | .empty => 1 | .held => 2
def BinKind.code : BinKind → Nat | .plain => 0 | .compile => 1
def Dest.code : Dest → Nat | .bin b => b | .purgeBin => 6

/-! ## Compound fields -/

/-- An object: its type and its number, or the fault code with its length (R185). -/
def objBytes : Obj → List Byte
  | .cover c => num1 1 ++ num1 c
  | .tray t => num1 2 ++ num1 t
  | .bin b => num1 3 ++ num1 b
  | .faultCode c => num1 4 ++ num1 c.length ++ c

def detailBytes (d : Detail) : List Byte :=
  num1 d.cause.code ++ opt (fun c => num1 c.val) d.ck ++ opt half d.tag ++ opt objBytes d.obj

/-- The one byte of a media length (R185): the number itself up to 255, a free value above it (log 15). -/
def mediaByte (n : Nat) : Byte := if n < 256 then BitVec.ofNat 8 n else Config.longMediaByte n

/-- An order snapshot: route, media length, keys, set number and set-end flag. -/
def snapshotBytes (n : Snapshot) : List Byte :=
  num1 n.route ++ [mediaByte n.media] ++ key4 n.front ++ opt key4 n.back ++
    opt (fun x => bytes2 x.1 ++ yesNo x.2) n.set

/-! ## Notices (R10 and the posting rules) -/

def strandedBytes (r : StrandedReport) : List Byte :=
  half r.tag ++ num4 r.seq ++ num1 r.job ++ num1 r.route ++ num1 r.bin ++
    num1 ((r.disposition.map Disposition.code).getD 0) ++ yesNo r.outOfOrder ++ listed (fun c => num1 c.val) r.checkpoints

def suspectBytes (r : SuspectReport) : List Byte :=
  half r.tag ++ num4 r.seq ++ num1 r.bin ++ num1 ((r.stage.map Stage.code).getD 0)

def Notice.code : Notice → Nat
  | .linkDiscard .. => 1 | .orderRefused .. => 2 | .resendRequest .. => 3 | .jobDone .. => 4 | .pageDiscard .. => 5
  | .flushBegin .. => 6 | .flushReport .. => 7 | .flushEnd .. => 8 | .incidentOpened .. => 9 | .incidentClosed .. => 10
  | .misfeedReport .. => 11 | .jamReport .. => 12 | .clearanceStatus .. => 13 | .removeRequest .. => 14 | .setLost .. => 15

/-- The fields of a notice, in the order its posting rule lists them. -/
def Notice.fields : Notice → List Byte
  | .linkDiscard r p k c => num1 r.code ++ num1 (portCode p) ++ [k] ++ half c
  | .orderRefused r id k item => num1 r.code ++ bytes2 id ++ key4 k ++ opt num1 item
  | .resendRequest q id j f ks => num4 q ++ bytes2 id ++ num1 j ++ yesNo f ++ listed key4 ks
  | .jobDone id j c d p r => bytes2 id ++ num1 j ++ yesNo c ++ num4 d ++ num4 p ++ num4 r
  | .pageDiscard k i r => key4 k ++ num1 i ++ num1 r.code
  | .flushBegin i r => yesNo i ++ yesNo r
  | .flushReport ks => listed key4 ks
  | .flushEnd n => bytes2 n
  | .incidentOpened c ca d st pre =>
    num1 c.level ++ num1 ca.code ++ detailBytes d ++ num1 (IncStatus.code (some st)) ++ opt (fun x => num1 x.level) pre
  | .incidentClosed c f n nx => num1 c.level ++ num1 f.code ++ num1 n ++ opt (fun x => num1 x.level) nx
  | .misfeedReport t tg q j n lim => num1 t ++ half tg ++ num4 q ++ num1 j ++ num1 n ++ num1 lim
  | .jamReport f n ds sp st su =>
    num1 f.code ++ num1 n ++ listed detailBytes ds ++ yesNo sp ++ listed strandedBytes st ++ listed suspectBytes su
  | .clearanceStatus bl => listed (fun x => num1 x.1 ++ opt half x.2) bl
  | .removeRequest r b ss set =>
    num1 r.code ++ num1 b ++ listed (fun x => half x.1 ++ num4 x.2) ss ++
      opt (fun x => num1 x.job ++ bytes2 x.set ++ num4 x.sheets) (set.filter fun _ => decide (r = .compileTray))
  | .setLost j n => num1 j ++ bytes2 n

/-! ## Outbound frames (sections 12.3, 12.4) -/

/-- The frame the U-port transmitter puts on the wire; an ENGSTAT keeps the CRC it came with (section 1.1). -/
def UOut.frame : UOut → Frame
  | .reply r => Frame.make kindReply (half r.tag ++ [r.request] ++ num1 r.code.code ++ r.body)
  | .notice p => Frame.make kindNotice (num1 p.notice.code ++ half p.number ++ p.notice.fields)
  | .engstat f => f

/-- The frame the E-port transmitter puts on the wire; an ENGCMD keeps the CRC it came with (section 1.1). -/
def EOut.frame : EOut → Frame
  | .halt => Frame.make kindHalt []
  | .divert t => Frame.make kindDivert (half t)
  | .runout ss => Frame.make kindRunout (listed (fun x => half x.1 ++ num1 x.2.code) ss)
  | .bandout b => Frame.make kindBandout (half b.tag ++ num1 (sideCode b.side) ++ num1 b.index ++ yesNo b.final ++ b.data)
  | .feed f => Frame.make kindFeed (half f.tag ++ num1 f.tray ++ num1 f.route ++ bytes2 f.media ++ yesNo f.duplex)
  | .engcmd f => f

/-! ## Reply bodies -/

/-- READ STATUS (R14). -/
def statusReply (s : State) : List Byte :=
  num1 s.pds.mode.code ++ num1 s.stk.path.code ++ yesNo s.li.dropped ++ half s.li.checkCount ++ half s.li.formatCount ++
    half s.li.overrunCount ++ num1 s.li.notices.length ++ num1 s.li.upward.length ++ half s.li.noticeCounter

def occupiedBytes (e : Occupied) : List Byte := num1 e.ck ++ num1 e.step.code ++ count4 e.lead ++ count4 e.base

/-- A sheet record: its slot and each field of R50. -/
def sheetBytes (r : Sheet) : List Byte :=
  num1 r.slot ++ half r.tag ++ num4 r.seq ++ num1 r.job ++ snapshotBytes r.snap ++ count4 r.feedStamp ++
    num1 r.state.code ++ num1 r.next.code ++ listed occupiedBytes r.occupied ++ opt count4 r.runoutStamp ++
    num1 r.sides.code ++ opt (fun x => num1 x.code) r.stage ++ opt (fun x => num1 x.code) r.disposition ++
    yesNo r.suspect ++ yesNo r.outOfOrder ++ yesNo r.reissued ++ num1 r.retries

/-- READ SHEETS (R76); the number of records is the list's own count (log 17). -/
def sheetsReply (s : State) : List Byte :=
  num1 s.stk.path.code ++ listed sheetBytes s.stk.sheets ++ count4 s.ckm.tc

def stagedBytes (r : Sheet) : List Byte :=
  num1 r.slot ++ half r.tag ++ num4 r.seq ++ num1 r.job ++ yesNo r.suspect

/-- A snapshot of a protected list as READ BIN carries it (R93): its page keys are the front key and the optional back key, the
model's choice where a counted list of keys could be read (log 16). -/
def protectedBytes (p : Protected) : List Byte := num4 p.seq ++ key4 p.snap.front ++ opt key4 p.snap.back

def openSetBytes (o : OpenSet) : List Byte :=
  num1 o.bin ++ num1 o.job ++ bytes2 o.set ++ num4 o.before ++ num4 o.first ++ num4 o.last ++ num4 o.count ++
    yesNo o.endCompiled ++ yesNo o.guarded.isSome ++ opt (listed protectedBytes) o.guarded

/-- READ BIN (R93). -/
def binReply (s : State) (b : Bin) : List Byte :=
  let e := s.pds.bins[b.val]
  let r := s.dlu.bins[b]
  num1 e.kind.code ++ yesNo e.configured ++ yesNo r.full ++ num4 r.lastDelivered ++ yesNo (s.frozen b) ++
    bytes2 (r.timer.getD 0) ++ opt stagedBytes (s.staged b .b) ++ opt stagedBytes (s.staged b .a) ++
    opt openSetBytes (s.dlu.openSet.filter fun o => decide (o.bin = b))

def lineBytes (s : State) (i : Nat) (l : Line) : List Byte :=
  num1 (i / Config.ways) ++ num1 (i % Config.ways) ++ num1 l.state.code ++ opt num4 l.owner ++ num1 l.chain.length ++
    num4 l.bytes ++ num1 l.cls.level ++ opt (fun t => num1 t.job ++ bytes2 t.set) l.setTag ++ yesNo l.pin ++
    yesNo ((l.owner.map s.settling).getD false)

/-- INQUIRE PAGE (R110); the first byte says whether the page is present. -/
def pageReply (s : State) (k : PageKey) : List Byte :=
  opt (fun p => lineBytes s p.1 p.2) (s.pgd.lookup k) ++ yesNo s.pgd.keepPath ++ yesNo s.pgd.keepSet ++
    opt (fun w => num1 w.next) s.pgd.walk ++ bytes2 s.pgd.free.length

def entryBytes (e : Entry) : List Byte := num4 e.seq ++ num1 e.job ++ snapshotBytes e.snap ++ yesNo e.resend

def reissueBytes (e : Entry) : List Byte :=
  entryBytes e ++ num1 ((e.origin.map Origin.code).getD 0) ++ num1 e.retries

def jobBytes (j : Job) : List Byte :=
  num1 j.state.code ++ bytes2 j.id ++ num1 j.cls.level ++ num1 j.orq ++ num1 j.ril ++ num1 j.stt ++ num4 j.set ++
    num4 j.delivered ++ num4 j.purged ++ num4 j.removed

def trayBytes (t : TrayFlags) : List Byte :=
  num1 t.state.code ++ yesNo t.empty ++ yesNo t.held ++ yesNo t.supplyReported

/-- Which list holds the gate head: 0 none, 1 Reissue List, 2 Order Queue. -/
def headList (g : Gate) : Nat :=
  match g.ril, g.orq with
  | _ :: _, _ => 1
  | [], _ :: _ => 2
  | [], [] => 0

/-- READ QUEUES (R147). -/
def queuesReply (s : State) : List Byte :=
  let g := s.ogt
  num4 g.seqCounter ++ half g.tagCounter ++ opt half g.interlock ++
    opt (fun t => num1 t.job ++ bytes2 t.set) g.compileSet ++ num1 (headList g) ++
    opt num4 (g.head.map (·.seq)) ++ listed entryBytes g.orq ++ listed reissueBytes g.ril ++
    listed jobBytes g.jobs.toList ++ g.trays.toList.flatMap trayBytes

def misfeedBytes (m : Misfeed) : List Byte := num4 m.seq ++ half m.tag ++ num1 m.tray ++ yesNo m.judged

def incidentBytes (c : IncClass) (i : Incident) : List Byte :=
  num1 i.phase.code ++ num1 i.first.code ++ num1 i.count ++ listed detailBytes i.details ++
    match c with
    | .interlock => []
    | .jam => yesNo i.setPurge ++ yesNo i.runoutDone
    | .misfeed => listed objBytes i.hold ++ (i.misfeed.map misfeedBytes).getD []
    | .supply => listed objBytes i.hold

/-- READ INCIDENTS (R161). -/
def incidentsReply (s : State) : List Byte :=
  let r := s.rcc
  opt (fun c => num1 c.level) r.active ++
    IncClass.all.flatMap (fun c => num1 (IncStatus.code (r.statusOf c)) ++ opt (incidentBytes c) (r.get c)) ++
    listed (fun c => num1 c.level ++ num1 (((r.get c).map (·.phase.code)).getD 0)) r.stack.reverse ++
    bytes2 (r.coverTimer.getD 0)

end Sys2Proof.Machine
end

