-- ==== Sys2Proof/Machine/Incidents.lean ====
section
/-!
DEFINITION. Machine/Incidents.lean: the Incident Table's records (09_incidents_and_recovery_priority.md, R148 to R151): what an
occurrence carries, the record it fills, what a merge does to a record, and the SUPPLY occurrence of the Order Gate, which
opens or merges without closing anything.
-/
namespace Sys2Proof.Machine

/-- An occurrence handed to the Recovery Controller (R149). `misfeed` is the ended record's sequence, tag and tray. -/
structure Occurrence where
  cls : IncClass
  detail : Detail
  misfeed : Option Misfeed
  deriving DecidableEq, Repr

/-- Change the open record of a class. -/
def onIncident (c : IncClass) (f : Incident → Incident) (s : State) : State :=
  s.onRcc fun r => r.set c ((r.get c).map f)

/-- The phase at opening (R148). -/
def IncClass.firstPhase : IncClass → Phase
  | .interlock => .opened
  | .jam => .stop
  | .misfeed => .retry
  | .supply => .hold

/-- The record an occurrence fills (R150, R163). -/
def fillRecord (o : Occurrence) (status : IncStatus) : Incident where
  status := status
  phase := o.cls.firstPhase
  first := o.detail.cause
  count := 1
  details := [o.detail]
  hold := if o.cls = .supply then o.detail.obj.toList else []
  misfeed := o.misfeed
  setPurge := decide (o.detail.cause = .compile)
  runoutDone := false

/-- Steps 1 and 2 of R151, and the set purge flag of R163. -/
def mergeRecord (o : Occurrence) (i : Incident) : Incident :=
  { i with
    count := min (i.count + 1) Config.occurrenceMax
    details := if i.details.length < Config.detailMax then i.details ++ [o.detail] else i.details
    setPurge := i.setPurge || decide (o.detail.cause = .compile) }

/-- An object joins a hold list unless it stands in it (R151, R157); at the tail, where the spec gives the list no order: the
model's choice, which READ INCIDENTS shows (R161; log 18). -/
def joinHold (o : Obj) (i : Incident) : Incident := if i.hold.contains o then i else { i with hold := i.hold ++ [o] }

/-- The class that opening a record of class `c` preempts (R150). -/
def Recovery.preemptedBy (r : Recovery) (c : IncClass) : Option IncClass :=
  r.active.filter fun a => decide (c.level < a.level)

/-- The state a new record takes (R150). -/
def Recovery.statusFor (r : Recovery) (c : IncClass) : IncStatus :=
  match r.active with
  | none => .active
  | some a => if c.level < a.level then .active else .pending

/-- A SUPPLY occurrence naming a tray (R141). -/
def trayOccurrence (t : Tray) : Occurrence := ⟨.supply, ⟨.trayEmpty, none, none, some (.tray t)⟩, none⟩

/-- The SUPPLY occurrence of a tray that is empty at this moment (R141, R150, R151): the record opens, preempting nothing, or
takes the occurrence. The close test R159 asks for here never closes it, since the tray it has just named is empty. -/
def raiseTrayEmpty (t : Tray) (s : State) : State :=
  match s.rcc.supply with
  | none =>
    let status := s.rcc.statusFor .supply
    post (.incidentOpened .supply .trayEmpty (trayOccurrence t).detail status none)
      (s.onRcc fun r => { r with supply := some (fillRecord (trayOccurrence t) status) })
  | some i => s.onRcc fun r => { r with supply := some (joinHold (.tray t) (mergeRecord (trayOccurrence t) i)) }

end Sys2Proof.Machine
end

