-- ==== Sys2Proof/Machine/Watch.lean ====
section
/-!
DEFINITION. Machine/Watch.lean: the Order Gate's watch over its head (R135): what makes a judgement, the tray test and the
resend request a judgement makes (R140, R141), the judgement within a command, and the frame every command's meaning stands in.
-/
namespace Sys2Proof.Machine

/-- Everything whose change R135 names: the gate head, the slots that records hold (so that each slot that becomes free is a
change, in a table that is not full too), the feed interlock, trays and bins, INTERLOCK and JAM open or CLEAR, the Path State,
the FEED place, the states of the lines the head references. -/
structure GateView where
  head : Option Seq
  slotsHeld : List (Fin 24)
  interlock : Option Tag
  trays : List (Bool × Bool)
  binsFull : List Bool
  interlockOpen : Bool
  jamOpen : Bool
  path : PathState
  feedFree : Bool
  headLines : List (Option LineState)
  deriving DecidableEq, Repr

def gateView (s : State) : GateView where
  head := s.ogt.head.map (·.seq)
  slotsHeld := s.stk.sheets.map (·.slot)
  interlock := s.ogt.interlock
  trays := s.ogt.trays.toList.map fun f => (f.empty, f.held)
  binsFull := s.dlu.bins.toList.map (·.full)
  interlockOpen := s.rcc.interlock.isSome
  jamOpen := s.rcc.jam.isSome
  path := s.stk.path
  feedFree := s.li.feedPlace.isNone
  headLines := match s.ogt.head with
    | some e => e.snap.keys.map s.pgd.stateOf
    | none => []

/-- An entry that is not the gate head carries no resend-requested mark (R135). -/
def Gate.dropMarks (g : Gate) : Gate :=
  let keep := g.head.map (·.seq)
  let f := fun e : Entry => if some e.seq = keep then e else { e with resend := false }
  { g with orq := g.orq.map f, ril := g.ril.map f }

/-- The gate head's resend-requested mark becomes yes. -/
def Gate.setHeadMark (g : Gate) : Gate :=
  match g.ril, g.orq with
  | e :: r, _ => { g with ril := { e with resend := true } :: r }
  | [], e :: r => { g with orq := { e with resend := true } :: r }
  | [], [] => g

/-- The tray test of a judgement (R141). -/
def trayTest (s : State) : State :=
  match s.ogt.head with
  | none => s
  | some e =>
    let t := (s.route e.snap.route).tray
    if s.ogt.trays[t].empty && !s.ogt.trays[t].supplyReported then
      (raiseTrayEmpty t s).onOgt fun g =>
        { g with trays := upd g.trays t fun f => { f with supplyReported := true } }
    else s

/-- The missing pages of the gate head are asked for once (R140). -/
def resendTest (s : State) : State :=
  match s.ogt.head with
  | none => s
  | some e =>
    let gone := e.snap.keys.filter (missing s)
    if gone.isEmpty || e.resend then s
    else
      (post (.resendRequest e.seq s.ogt.jobs[e.job].id e.job (!s.ogt.ril.isEmpty) gone) s).onOgt Gate.setHeadMark

/-- A judgement of the gate head but for the admission, which is the row ADMIT_GATE_HEAD (R135; log 6). -/
def judgeHead (s : State) : State := resendTest (trayTest s)

/-- After a change: when anything R135 names is not as it was, the marks of former heads go and, in RUNNING, the gate head is
judged (log 6). -/
def watchGate (before after : State) : State :=
  if gateView before = gateView after then after
  else
    let s := after.onOgt Gate.dropMarks
    if s.pds.mode = .running then judgeHead s else s

/-- A change within a command that the Order Gate is told of, judged before what follows it in the command (R135). -/
def watched (f : State → State) (s : State) : State := watchGate s (f s)

/-- A command's meaning: nothing happens while PORST is asserted (R16); otherwise the event, and after it the gate's watch
over its head. -/
def event (f : State → State) (s : State) : Host.Outcome State Fault Refusal :=
  if s.porst then .next s else .next (watchGate s (f s))

end Sys2Proof.Machine
end

