-- ==== Sys2Proof/Machine/Directory.lean ====
section
/-!
DEFINITION. Machine/Directory.lean: the Page Directory and the Band Pool (06_the_page_directory.md): lines, placement,
victim choice, displacement, discards, the pin, the requests of other blocks, the flush walk; and the loss of a set's
protection, which the Delivery Unit and the Page Directory carry out together (R88).
-/
namespace Sys2Proof.Machine

/-! ## Lines and replacement bits -/

/-- The state of a line changes; the effective class is recorded at each change of state (R94, R98; log 20). -/
def Line.enter (st : LineState) (cls : Retention) (l : Line) : Line :=
  if l.state = st then l else { l with state := st, cls := cls }

/-- A line becomes RELEASED: it loses its owner and set tag (R96, R108). -/
def Line.release (cls : Retention) (l : Line) : Line :=
  { l.enter .released cls with owner := none, setTag := none }

/-- Apply a change to every line. -/
def Directory.mapLines (f : Line → Line) (d : Directory) : Directory :=
  { d with lines := d.lines.map fun p => (p.1, f p.2) }

def Directory.putWay (i : Nat) (l : Line) (d : Directory) : Directory := { d with lines := Cells.put d.lines i l }

/-- A way becomes INVALID and its chain joins the tail of the free list (R115). -/
def Directory.dropWay (i : Nat) (d : Directory) : Directory :=
  match Cells.find d.lines i with
  | some l => { d with lines := Cells.erase d.lines i, free := d.free ++ l.chain }
  | none => d

/-- Point the replacement bits away from a touched way (R95). -/
def Plru.touch (way : Nat) (p : Plru) : Plru :=
  if way = 0 then { p with root := true, lower := true }
  else if way = 1 then { p with root := true, lower := false }
  else if way = 2 then { p with root := false, upper := true }
  else { p with root := false, upper := false }

/-- The way the replacement bits point to (R95). -/
def Plru.pointed (p : Plru) : Nat :=
  if p.root then (if p.upper then 3 else 2) else (if p.lower then 1 else 0)

/-- The line in way `i` of the directory is touched (R95). -/
def Directory.touch (i : Nat) (d : Directory) : Directory :=
  match index? 64 (i / Config.ways) with
  | some n => { d with plru := upd d.plru n (Plru.touch (i % Config.ways)) }
  | none => d

def Directory.bitsOf (d : Directory) (set : Nat) : Plru :=
  match index? 64 set with
  | some n => d.plru[n]
  | none => ⟨false, false, false⟩

/-! ## Loss of protection (R88, R108) -/

/-- Every SETHELD line with the set's tag becomes RELEASED (R108). -/
def releaseSet (t : SetTag) (s : State) : State :=
  s.onPgd (Directory.mapLines fun l =>
    if l.state = .setheld ∧ l.setTag = some t then l.release (effectiveClass s l.key) else l)

/-- The named set loses its protection, if it is the set of the Open Set Record and is protected (R88). -/
def loseProtection (t : SetTag) (s : State) : State :=
  match s.dlu.openSet with
  | some o =>
    if o.guarded.isSome ∧ t = ⟨o.job, o.set⟩ then
      releaseSet t (s.onDlu fun d => { d with openSet := some { o with guarded := none } })
    else s
  | none => s

/-! ## Discards (R104) -/

/-- The gate head's resend-requested mark becomes no. -/
def Gate.clearHeadMark (g : Gate) : Gate :=
  match g.ril, g.orq with
  | e :: r, _ => { g with ril := { e with resend := false } :: r }
  | [], e :: r => { g with orq := { e with resend := false } :: r }
  | [], [] => g

/-- The Order Gate hears that a band of a page was discarded RETENTION FULL or GAP (R104, R140). -/
def reportDiscard (k : PageKey) (s : State) : State :=
  match s.ogt.head with
  | some e => if e.snap.refers k then s.onOgt Gate.clearHeadMark else s
  | none => s

/-- A band is discarded with a notice, and the latch takes its page (R104). -/
def discardBand (k : PageKey) (index : Nat) (r : DiscardReason) (s : State) : State :=
  (post (.pageDiscard k index r) s).onPgd fun d => { d with latch := some k }

def discardDuplicate (k : PageKey) (index : Nat) (s : State) : State := discardBand k index .duplicate s
def discardGap (k : PageKey) (index : Nat) (s : State) : State := reportDiscard k (discardBand k index .gap s)
def discardFull (k : PageKey) (index : Nat) (s : State) : State := reportDiscard k (discardBand k index .retentionFull s)

/-! ## Victim choice and displacement (R100 to R102) -/

/-- Displacement ranks a line without an owner first, then the greatest owner (R101). -/
def ranksBefore : Option Seq → Option Seq → Bool
  | none, some _ => true
  | some a, some b => decide (b < a)
  | _, none => false

/-- The first-ranked of some lines; of equal rank the first in the list. -/
def firstRanked : List (Nat × Line) → Option (Nat × Line)
  | [] => none
  | p :: ps =>
    match firstRanked ps with
    | none => some p
    | some q => if ranksBefore q.2.owner p.2.owner then some q else some p

def Directory.stateAt (d : Directory) (i : Nat) : Option LineState := (Cells.find d.lines i).map (·.state)

def Directory.ownerAt (d : Directory) (i : Nat) : Seq := ((Cells.find d.lines i).bind (·.owner)).getD 0

/-- The ways of a page's set, lowest first. -/
def waysOf (k : PageKey) : List Nat := List.range' (setOf k * Config.ways) Config.ways

/-- Step 2 of R100: the way pointed to if it is RELEASED, else the lowest RELEASED way. -/
def releasedWay (d : Directory) (k : PageKey) : Option Nat :=
  let p := setOf k * Config.ways + (d.bitsOf (setOf k)).pointed
  if d.stateAt p = some .released then some p
  else (waysOf k).find? fun i => d.stateAt i = some .released

/-- Step 3 of R100: the SETHELD way of the lowest owner; between two ways of one owner a free value picks (log 14). -/
def setheldWay (d : Directory) (k : PageKey) : Option Nat :=
  let held := (waysOf k).filter fun i => d.stateAt i = some .setheld
  let lowest := held.filter fun i => held.all fun j => decide (d.ownerAt i ≤ d.ownerAt j)
  match lowest with
  | [] => none
  | [i] => some i
  | i :: rest => some ((i :: rest).getD (Config.setHeldTie (d.ownerAt i) % (i :: rest).length) i)

/-- Step 4 of R100: the first-ranked displaceable way of the set, for a wanted page. -/
def displacedWay (s : State) (k : PageKey) : Option Nat :=
  if wanted s k then
    (firstRanked (s.pgd.lines.filter fun p => decide (p.1 / Config.ways = setOf k) && displaceable s p.2)).map (·.1)
  else none

/-- Victim choice (R100): the way a first band of an absent page takes. -/
def victim (s : State) (k : PageKey) : Option Nat :=
  match (waysOf k).find? fun i => s.pgd.stateAt i = none with
  | some i => some i
  | none =>
    match releasedWay s.pgd k with
    | some i => some i
    | none =>
      match setheldWay s.pgd k with
      | some i => some i
      | none => displacedWay s k

/-- The sequence of the queued entry that references a page, given at allocation (R96, R135). -/
def Gate.ownerFor (g : Gate) (k : PageKey) : Option Seq :=
  ((g.ril ++ g.orq).find? (·.snap.refers k)).map (·.seq)

/-- A line that has just become FILLING (R99). -/
def freshLine (s : State) (k : PageKey) : Line where
  state := .filling
  key := k
  owner := s.ogt.ownerFor k
  chain := []
  bytes := 0
  cls := effectiveClass s k
  setTag := none
  pin := false
  invalidateOnUnpin := false

/-- A way becomes FILLING for a page: its chain is freed, the way is touched, and a set whose SETHELD line was taken loses
its protection (R99, R100). -/
def fillWay (k : PageKey) (i : Nat) (s : State) : State :=
  let old := Cells.find s.pgd.lines i
  let s := watched (fun s => s.onPgd fun d => ((d.dropWay i).putWay i (freshLine s k)).touch i) s
  match old with
  | some l =>
    match l.setTag with
    | some t => loseProtection t s
    | none => s
  | none => s

/-- The pool form of displacement, when the free list is empty and the page is wanted (R102). -/
def displacePool (k : PageKey) (s : State) : State :=
  if s.pgd.free.isEmpty && wanted s k then
    match firstRanked (s.pgd.lines.filter fun p => displaceable s p.2) with
    | some p => watched (State.onPgd (Directory.dropWay p.1)) s
    | none => s
  else s

/-- Append a block to a line's chain (R99). -/
def Line.append (block len : Nat) (l : Line) : Line :=
  { l with chain := l.chain ++ [block], bytes := l.bytes + len }

/-- Take one block for a placement, or discard the page RETENTION FULL (R102): the discard clears the gate head's mark (R104),
and the change of the line then makes the gate judge its head. -/
def takeBlock (k : PageKey) (i index len : Nat) (s : State) : State × Option Nat :=
  let s := displacePool k s
  match s.pgd.free with
  | b :: rest =>
    (s.onPgd fun d =>
      match Cells.find d.lines i with
      | some l => { d with free := rest, lines := Cells.put d.lines i (l.append b len) }
      | none => d, some b)
  | [] => (watched (State.onPgd (Directory.dropWay i)) (discardFull k index s), none)

/-! ## Placement (R99, R104) -/

/-- Placement after the latch test, by the table of R99. -/
def placeByTable (k : PageKey) (index : Nat) (final : Bool) (len : Nat) (s : State) : State × Option Nat :=
  match s.pgd.lookup k with
  | none =>
    if index = 0 then
      match victim s k with
      | some i => takeBlock k i index len (fillWay k i s)
      | none => (discardFull k index s, none)
    else (discardGap k index s, none)
  | some (i, l) =>
    match l.state with
    | .released =>
      if index = 0 then takeBlock k i index len (fillWay k i s) else (discardGap k index s, none)
    | .filling =>
      if index = 0 then (discardDuplicate k index s, none)
      else if index = l.chain.length ∧ ¬(index = 127 ∧ final = false) then takeBlock k i index len s
      else (discardGap k index (s.onPgd (Directory.dropWay i)), none)
    | .ready | .locked | .setheld => (discardDuplicate k index s, none)

/-- The band is tested against the discard latch, then placed (R99, R104). The answer is the block it is placed in. -/
def place (k : PageKey) (index : Nat) (final : Bool) (len : Nat) (s : State) : State × Option Nat :=
  if s.pgd.latch = some k ∧ 0 < index then (s, none)
  else placeByTable k index final len (s.onPgd fun d => { d with latch := none })

/-- The write of a band has completed (R103). -/
def writeCompleted (k : PageKey) (final : Bool) (s : State) : State :=
  match s.pgd.lookup k with
  | some (i, l) =>
    if l.state = .filling ∧ final = true then s.onPgd (Directory.putWay i (l.enter .ready (effectiveClass s k))) else s
  | none => s

/-! ## Replay and imaging (R105, R106) -/

/-- The line a replay would read: READY or LOCKED for the key (R105). -/
def Directory.replayLine (d : Directory) (k : PageKey) : Option (Nat × Line) :=
  (d.lookup k).filter fun p => decide (p.2.state = .ready ∨ p.2.state = .locked)

/-- Touch and pin the line a replay starts from (R105). -/
def pinLine (i : Nat) (l : Line) (s : State) : State :=
  s.onPgd fun d => (d.putWay i { l with pin := true, invalidateOnUnpin := false }).touch i

def Line.unpin (l : Line) : Line := { l with pin := false, invalidateOnUnpin := false }

/-- A replay is abandoned: the pin is released (R105). -/
def unpinAbandoned (k : PageKey) (s : State) : State :=
  match s.pgd.lookup k with
  | some (i, l) => if l.invalidateOnUnpin then s.onPgd (Directory.dropWay i) else s.onPgd (Directory.putWay i l.unpin)
  | none => s

/-- Imaging done at the Page Directory (R106). -/
def imagingDoneLine (k : PageKey) (s : State) : State :=
  match s.pgd.lookup k with
  | some (i, l) =>
    if l.invalidateOnUnpin then s.onPgd (Directory.dropWay i)
    else
      let l := l.unpin
      let cls := effectiveClass s k
      match l.state with
      | .ready | .locked =>
        if cls = .none then s.onPgd (Directory.putWay i (l.release cls))
        else s.onPgd (Directory.putWay i (l.enter .locked cls))
      | .filling | .setheld | .released => s.onPgd (Directory.putWay i l)
  | none => s

/-! ## Requests of other blocks (R96, R107 to R109) -/

/-- The page keys of an accepted order are given to the Page Directory (R96). -/
def claimLine (q : Seq) (k : PageKey) (s : State) : State :=
  match s.pgd.lookup k with
  | some (i, l) =>
    match l.state with
    | .filling | .ready => if l.owner = none then s.onPgd (Directory.putWay i { l with owner := some q }) else s
    | .released => s.onPgd (Directory.putWay i { l.enter .locked (effectiveClass s k) with owner := some q })
    | .locked | .setheld => s
  | none => s

/-- Release: each LOCKED line owned by the sequence becomes RELEASED (R107). -/
def releaseOwner (q : Seq) (s : State) : State :=
  s.onPgd (Directory.mapLines fun l =>
    if l.state = .locked ∧ l.owner = some q then l.release (effectiveClass s l.key) else l)

/-- Compile: a LOCKED line owned by the sequence becomes SETHELD or RELEASED (R107). -/
def compileOwner (q : Seq) (t : SetTag) (guarded : Bool) (s : State) : State :=
  s.onPgd (Directory.mapLines fun l =>
    if l.state = .locked ∧ l.owner = some q then
      let cls := effectiveClass s l.key
      if cls = .full ∧ guarded = true then { l.enter .setheld cls with setTag := some t } else l.release cls
    else l)

/-- Relock set: every SETHELD line with the tag becomes LOCKED and keeps its owner (R108). -/
def relockSet (t : SetTag) (s : State) : State :=
  s.onPgd (Directory.mapLines fun l =>
    if l.state = .setheld ∧ l.setTag = some t then { l.enter .locked (effectiveClass s l.key) with setTag := none } else l)

/-- Relock for reissue: a RELEASED line of the page becomes LOCKED, owned by the entry (R109). -/
def relockLine (q : Seq) (k : PageKey) (s : State) : State :=
  match s.pgd.lookup k with
  | some (i, l) =>
    if l.state = .released then
      s.onPgd (Directory.putWay i { l.enter .locked (effectiveClass s k) with owner := some q })
    else s
  | none => s

/-- Owner invalidation (R109): every line owned by the sequence becomes INVALID, or is marked when it is pinned. -/
def Directory.invalidateOwner (q : Seq) (d : Directory) : Directory :=
  let gone := fun p : Nat × Line => decide (p.2.owner = some q) && !p.2.pin
  { d with
    lines := (d.lines.filter fun p => !gone p).map fun p =>
      (p.1, if p.2.owner = some q then { p.2 with invalidateOnUnpin := true } else p.2)
    free := d.free ++ (d.lines.filter gone).flatMap (·.2.chain) }

def invalidateOwner (q : Seq) (s : State) : State := s.onPgd (Directory.invalidateOwner q)

/-! ## The flush walk (R113, R114) -/

/-- Whether the walk takes a line (R105, R113). -/
def Walk.takes (w : Walk) (l : Line) : Bool :=
  !l.pin && decide (l.state = .released ∨ (l.state = .setheld ∧ w.includeSets = true))

/-- A line is made INVALID by the walk: it is counted, and its key reported (R113). -/
def walkInvalidate (i : Nat) (l : Line) (w : Walk) (s : State) : Walk × State :=
  let s := s.onPgd (Directory.dropWay i)
  let w := { w with invalidated := w.invalidated + 1 }
  if w.report then
    let keys := w.buffer ++ [l.key]
    if keys.length = Config.reportKeys then ({ w with buffer := [] }, post (.flushReport keys) s)
    else ({ w with buffer := keys }, s)
  else (w, s)

/-- The ways of one set, judged in turn; the answer also holds the set tag of a SETHELD line that was taken. -/
def walkWays : List Nat → Walk → Option SetTag → State → Walk × Option SetTag × State
  | [], w, t, s => (w, t, s)
  | i :: is, w, t, s =>
    match Cells.find s.pgd.lines i with
    | some l =>
      if w.takes l then
        let r := walkInvalidate i l w s
        walkWays is r.1 (if l.state = .setheld then l.setTag else t) r.2
      else walkWays is w t s
    | none => walkWays is w t s

/-- The walk ends after set 63 (R114). -/
def walkEnd (w : Walk) (s : State) : State :=
  let s := if w.report && !w.buffer.isEmpty then post (.flushReport w.buffer) s else s
  (post (.flushEnd w.invalidated) s).onPgd fun d => { d with walk := none }

/-- The walk of its next set (R113). -/
def walkStep (w : Walk) (s : State) : State :=
  let r := walkWays (List.range' (w.next * Config.ways) Config.ways) w none s
  let s := match r.2.1 with
    | some t => loseProtection t r.2.2
    | none => r.2.2
  let w := { r.1 with next := w.next + 1 }
  if w.next = Config.sets then walkEnd w s else s.onPgd fun d => { d with walk := some w }

end Sys2Proof.Machine
end

