-- ==== Sys2Proof/Machine/GateOps.lean ====
section
/-!
DEFINITION. Machine/GateOps.lean: the Order Gate's shared operations (08_order_admission_and_jobs.md): job counts and JOB
DONE, insertion into the Reissue List, the withdrawal of an admission.
-/
namespace Sys2Proof.Machine

/-! ## Jobs (R143, R145) -/

def onJob (j : JobSlot) (f : Job → Job) (s : State) : State := s.onOgt fun g => { g with jobs := upd g.jobs j f }

/-- A CLOSING or CANCELLING entry with all four counts 0 is done (R145). -/
def Job.done (b : Job) : Bool :=
  decide ((b.state = .closing ∨ b.state = .cancelling) ∧ b.orq = 0 ∧ b.ril = 0 ∧ b.stt = 0 ∧ b.set = 0)

/-- When the entry is done, JOB DONE is posted and it becomes FREE (R145). -/
def checkDone (j : JobSlot) (s : State) : State :=
  let b := s.ogt.jobs[j]
  if b.done then
    onJob j (fun b => { b with state := .free })
      (post (.jobDone b.id j (decide (b.state = .cancelling)) b.delivered b.purged b.removed) s)
  else s

/-! ## The Reissue List (R134) -/

/-- An insertion goes before the first entry whose sequence is greater (R134). -/
def insertEntry (e : Entry) : List Entry → List Entry
  | [] => [e]
  | x :: xs => if e.seq < x.seq then e :: x :: xs else x :: insertEntry e xs

def reissue (e : Entry) (s : State) : State :=
  onJob e.job (fun b => { b with ril := b.ril + 1 }) (s.onOgt fun g => { g with ril := insertEntry e g.ril })

/-! ## Withdrawal of an admission (R138) -/

/-- Drop a record from the Sheet Tracking Table: its slot is free and it leaves the feed order (R49, R53). -/
def dropSheet (t : Tag) (s : State) : State :=
  s.onStk fun k => { k with sheets := k.sheets.filter fun r => decide (r.tag ≠ t) }

/-- The entry of a withdrawn admission returns to the list it came from (R138), to an Order Queue that has been refilled to 64
entries too, which then holds 65 (log 32). -/
def returnEntry (r : Sheet) (s : State) : State :=
  let e : Entry := ⟨r.seq, r.job, r.snap, false, if r.reissued then s.ogt.admitOrigin else none, r.retries⟩
  if r.reissued then reissue e s
  else onJob r.job (fun b => { b with orq := b.orq + 1 }) (s.onOgt fun g => { g with orq := e :: g.orq })

/-- An INTERLOCK or JAM has left CLEAR: a FEED that has not begun is withdrawn with its admission (R138). R138 takes the record
to be ADMITTED; the model's choice for one that has ended or moved on while the FEED waited is log 35: without a record the FEED
goes and no entry returns; a record in whatever state is dropped and its entry returns. -/
def withdrawAdmission (s : State) : State :=
  match s.li.feedPlace with
  | none => s
  | some f =>
    let s := s.onLi fun l => { l with feedPlace := none }
    let s := match s.sheet? f.tag with
      | some r => returnEntry r (onJob r.job (fun b => { b with stt := b.stt - 1 }) (dropSheet f.tag s))
      | none => s
    s.onOgt fun g => { g with interlock := none }

end Sys2Proof.Machine
end

