-- ==== Sys2Proof/Machine/SheetOps.lean ====
section
/-!
DEFINITION. Machine/SheetOps.lean: the Sheet Tracker's shared operations (04_sheet_tracking.md): the end of a record, claims
on records, opening a record, stranding, the start of a run-out, the Path State requests, the judging of deadlines.
-/
namespace Sys2Proof.Machine

/-- Change the record of a tag. -/
def updSheet (t : Tag) (f : Sheet → Sheet) (s : State) : State :=
  s.onStk fun k => { k with sheets := k.sheets.map fun r => if r.tag = t then f r else r }

/-! ## The end of a record (R53) -/

inductive Ending | delivered | compiled | purged | removed | misfed
  deriving DecidableEq, Repr

/-- The job's counts and totals at an ending (R143), but for the Reissue List's count. -/
def Ending.count (e : Ending) (b : Job) : Job :=
  match e with
  | .delivered => { b with stt := b.stt - 1, delivered := b.delivered + 1 }
  | .compiled => { b with stt := b.stt - 1, set := b.set + 1 }
  | .purged => { b with stt := b.stt - 1, purged := b.purged + 1 }
  | .removed => { b with stt := b.stt - 1, removed := b.removed + 1 }
  | .misfed => { b with stt := b.stt - 1 }

/-- The reissue entry an ending makes (R53): none for DELIVERED and COMPILED. -/
def Ending.entry (e : Ending) (r : Sheet) : Option Entry :=
  match e with
  | .delivered | .compiled => none
  | .purged | .removed => some ⟨r.seq, r.job, r.snap, false, some .path, r.retries⟩
  | .misfed => some ⟨r.seq, r.job, r.snap, false, some .misfeed, min (r.retries + 1) Config.retryMax⟩

/-- The feed interlock is cleared if it names the tag (R139). -/
def clearInterlock (t : Tag) (s : State) : State :=
  s.onOgt fun g => { g with interlock := if g.interlock = some t then none else g.interlock }

/-- Step 4 of R53: the reissue entry is made, or for a cancelling job the lines are invalidated. -/
def reissueOrInvalidate (e : Ending) (r : Sheet) (s : State) : State :=
  match e.entry r with
  | none => s
  | some x => if cancelling s r.job then invalidateOwner r.seq s else reissue x s

/-- A record ends (R53): it leaves the table and the checkpoints lose it as occupant, the Order Gate counts the ending, and
the sequence passes to the Reissue List or its lines are invalidated. The gate head is judged after each ending (R135). -/
def endSheet (t : Tag) (e : Ending) (s : State) : State :=
  match s.sheet? t with
  | none => s
  | some r =>
    watchGate s (checkDone r.job
      (reissueOrInvalidate e r (clearInterlock t (onJob r.job e.count (dropSheet t s)))))

/-! ## Opening a record (R51) -/

/-- The first value from the counter on that no record holds; `fuel` tries. -/
def freeTag (used : List Tag) : Nat → Tag → Tag
  | 0, t => t
  | n + 1, t => if used.contains t then freeTag used n (t + 1) else t

/-- The lowest-numbered free slot. -/
def freeSlot (sheets : List Sheet) : Option (Fin 24) :=
  (List.finRange 24).find? fun i => sheets.all fun r => decide (r.slot ≠ i)

/-- The record of a newly admitted sheet (R51). -/
def newSheet (slot : Fin 24) (t : Tag) (e : Entry) (reissued : Bool) (now : Count) : Sheet where
  slot := slot
  tag := t
  seq := e.seq
  job := e.job
  snap := e.snap
  feedStamp := now
  state := .admitted
  next := .step 0
  occupied := []
  runoutStamp := none
  sides := .none
  stage := none
  disposition := none
  suspect := false
  outOfOrder := false
  reissued := reissued
  retries := e.retries

/-! ## Stranding and run-out (R56, R71) -/

/-- The sheets a halt strands (R56). -/
def Sheet.inTransport (r : Sheet) : Bool :=
  match r.state with
  | .admitted | .moving | .runout => true
  | .settling | .stranded => false

def Sheet.strand (r : Sheet) : Sheet :=
  if r.inTransport then { r with state := .stranded, runoutStamp := none } else r

/-- A STRANDED record becomes RUNOUT: fresh stamps, and the course of its disposition (R71, R72). -/
def Sheet.beginRunout (rt : Route) (now : Count) (r : Sheet) : Sheet :=
  if r.state = .stranded then
    { r with
      state := .runout
      runoutStamp := some now
      occupied := r.occupied.map fun e => { e with base := now }
      next := if r.disposition = some .purge then purgeCourse rt r.next else r.next }
  else r

/-! ## Path State requests (R55) -/

/-- A halt request in MOVING or RUNNING_OUT: HALTING, and a HALT is placed, beside one in transmission too (R12). In HALTING
the halt under way answers it and none is placed, whatever is in transmission (R55, R164; log 27); in HALTED the caller reads
the Path State, which answers at once. -/
def requestHalt (s : State) : State :=
  match s.stk.path with
  | .moving | .runningOut => (s.onStk fun k => { k with path := .halting }).onLi Link.placeHalt
  | .halting | .halted => s

/-- A resume: MOVING from HALTED or HALTING. -/
def requestResume (s : State) : State :=
  match s.stk.path with
  | .halted | .halting => s.onStk fun k => { k with path := .moving }
  | .moving | .runningOut => s

/-! ## Claims (R75) -/

/-- A record takes a disposition; a RUNOUT record changes course with it (R72, R75). -/
def Sheet.setDisposition (rt : Route) (d : Disposition) (r : Sheet) : Sheet :=
  match r.state with
  | .stranded => { r with disposition := some d }
  | .runout => { r with disposition := some d, next := if d = .purge then purgeCourse rt r.next else r.next }
  | .admitted | .moving | .settling => r

/-- The set-disposition claim (R75). -/
def setDisposition (t : Tag) (d : Disposition) (s : State) : State :=
  updSheet t (fun r => r.setDisposition (s.routeOf r) d) s

/-- The divert claim: a DELIVER record not past its divert-last step turns to the purge exit (R72, R75). -/
def claimDivert (rt : Route) (t : Tag) (s : State) : State :=
  updSheet t (fun r =>
    if r.state = .runout ∧ r.disposition = some .deliver ∧ pastDivert rt r = false then
      { r with disposition := some .purge, next := purgeCourse rt r.next }
    else r) s

def markOutOfOrder (t : Tag) (s : State) : State :=
  updSheet t (fun r => if r.state = .runout then { r with outOfOrder := true } else r) s

/-! ## Deadlines (R61 to R63, R73) -/

/-- The trail deadlines of a record that expire at this count. -/
def trailExpiries (rt : Route) (r : Sheet) (now : Count) : List Expiry :=
  (r.occupied.filter fun e => expiresAt e.base now (r.snap.media + rt.tolerance e.step)).map (.trail r.tag ·)

/-- The lead window of a record that expires at this count (R62). -/
def leadExpiries (rt : Route) (r : Sheet) (now : Count) : List Expiry :=
  match r.next with
  | .step i =>
    match rt.steps[i]? with
    | some st => if expiresAt r.feedStamp now st.latest then [.lead r.tag i] else []
    | none => []
  | .purgeExit | .purgeDone => []

/-- The run-out lead deadline of a record whose course is not complete (R73). -/
def runoutExpiries (rt : Route) (limit : Nat) (r : Sheet) (now : Count) : List Expiry :=
  match r.runoutStamp with
  | some st =>
    if routeComplete rt r = false ∧ r.next ≠ .purgeDone ∧ expiresAt st now limit = true then [.runout r.tag st] else []
  | none => []

/-- The deadlines of one record that the Path State puts in play (R61). -/
def expiriesOf (p : PathDesc) (path : PathState) (now : Count) (r : Sheet) : List Expiry :=
  let rt := p.routes[r.snap.route]
  match path, r.state with
  | .moving, .admitted => leadExpiries rt r now
  | .moving, .moving => leadExpiries rt r now ++ trailExpiries rt r now
  | .runningOut, .runout => runoutExpiries rt p.timing.runoutLimit r now ++ trailExpiries rt r now
  | _, _ => []

end Sys2Proof.Machine
end

