-- ==== Sys2Proof/Machine/BinOps.lean ====
section
/-!
DEFINITION. Machine/BinOps.lean: the Delivery Unit's shared operations (05_bin_delivery_settling_and_sets.md): timers,
suspects, leaving a queue, the advance, joining the Open Set Record, SET EJECTED, the set purge.
-/
namespace Sys2Proof.Machine

def onBin (b : Bin) (f : BinRec → BinRec) (s : State) : State := s.onDlu fun d => { d with bins := upd d.bins b f }

def setTimer (b : Bin) (t : Option Nat) (s : State) : State := onBin b (fun x => { x with timer := t }) s

/-- Restart a bin's settle timer at the settle interval (R79). -/
def restartTimer (b : Bin) (s : State) : State := setTimer b (some s.pds.timing.settleMs) s

def setLastDelivered (b : Bin) (q : Seq) (s : State) : State := onBin b (fun x => { x with lastDelivered := q }) s

/-! ## Suspects (R83, R85) -/

/-- Mark a settling sheet suspect: its queue freezes and the timer stops (R75, R80, R83). -/
def markSuspect (t : Tag) (s : State) : State :=
  match s.sheet? t with
  | some r =>
    if r.state = .settling then setTimer (s.binOf r) none (updSheet t (fun r => { r with suspect := true }) s) else s
  | none => s

/-- The claim end REMOVED on a SETTLING sheet: it leaves its stage, then ends; a queue that thaws restarts its timer and an
empty queue's timer stops (R75, R80, R85). -/
def removeSettling (t : Tag) (s : State) : State :=
  match s.sheet? t with
  | none => s
  | some r =>
    let b := s.binOf r
    let s' := endSheet t .removed s
    if s'.queueEmpty b then setTimer b none s'
    else if s.frozen b && !s'.frozen b then restartTimer b s'
    else s'

/-! ## The Open Set Record (R82, R86, R87) -/

def Sheet.setNumber (r : Sheet) : Nat := (r.snap.set.map (·.1)).getD 0
def Sheet.setEnd (r : Sheet) : Bool := (r.snap.set.map (·.2)).getD false

/-- The join test on a sheet due to leave the compile bin's stage B (R82). -/
def joinTest (b : Bin) (r : Sheet) (s : State) : Bool :=
  match s.dlu.openSet with
  | none => true
  | some o => decide (o.bin = b ∧ o.job = r.job ∧ o.set = r.setNumber) && !o.endCompiled

/-- A compiling sheet starts a set (R87). -/
def startSet (b : Bin) (r : Sheet) (before : Seq) : OpenSet where
  bin := b
  job := r.job
  set := r.setNumber
  before := before
  first := r.seq
  last := r.seq
  count := 1
  endCompiled := r.setEnd
  guarded := some [⟨r.seq, r.job, r.snap⟩]

/-- A compiling sheet joins the Open Set Record (R87); a set that would outgrow the limit loses its protection (R88). A limit
that SET TIMING has lowered below the list trims nothing until then (log 28). -/
def joinSet (b : Bin) (r : Sheet) (s : State) : State :=
  match s.dlu.openSet with
  | none => s.onDlu fun d => { d with openSet := some (startSet b r s.dlu.bins[b].lastDelivered) }
  | some o =>
    let o := { o with last := r.seq, count := o.count + 1, endCompiled := o.endCompiled || r.setEnd }
    match o.guarded with
    | none => s.onDlu fun d => { d with openSet := some o }
    | some l =>
      if l.length < s.pds.timing.setProtection then
        s.onDlu fun d => { d with openSet := some { o with guarded := some (l ++ [⟨r.seq, r.job, r.snap⟩]) } }
      else loseProtection ⟨o.job, o.set⟩ (s.onDlu fun d => { d with openSet := some o })

/-- Whether the Open Set Record's set is protected. -/
def setGuarded (s : State) : Bool := ((s.dlu.openSet.map (·.guarded.isSome))).getD false

/-! ## Leaving and advancing (R79 to R82) -/

/-- A sheet leaves stage B of a PLAIN bin: it is delivered (R81). -/
def deliver (b : Bin) (r : Sheet) (s : State) : State :=
  setLastDelivered b r.seq (releaseOwner r.seq (endSheet r.tag .delivered s))

/-- A sheet leaves stage B of the compile bin: it is compiled (R82). -/
def compile (b : Bin) (r : Sheet) (s : State) : State :=
  let s := joinSet b r (endSheet r.tag .compiled s)
  setLastDelivered b r.seq (compileOwner r.seq ⟨r.job, r.setNumber⟩ (setGuarded s) s)

/-- Step 1 of R79: the stage B sheet, if any, leaves into the bin. -/
def leaveB (b : Bin) (s : State) : State :=
  match s.staged b .b with
  | none => s
  | some r => if isCompile s b then compile b r s else deliver b r s

/-- Step 2 of R79: the stage A sheet, if any, moves to stage B. -/
def shiftA (b : Bin) (s : State) : State :=
  match s.staged b .a with
  | none => s
  | some r => updSheet r.tag (fun r => { r with stage := some .b }) s

/-- Advance on ejection (R79): the handed sheet enters stage A. -/
def advanceEjection (b : Bin) (t : Tag) (s : State) : State :=
  restartTimer b
    (updSheet t (fun r => { r with state := .settling, stage := some .a, disposition := none, runoutStamp := none })
      (shiftA b (leaveB b s)))

/-- Advance on expiry (R80). -/
def advanceExpiry (b : Bin) (s : State) : State :=
  let s := shiftA b (leaveB b s)
  if s.queueEmpty b then setTimer b none s else restartTimer b s

/-- The stage B sheet of the compile bin that is due to leave and fails the join test; none in a frozen queue, which does
not advance (R82, R83). -/
def joinFailure (b : Bin) (s : State) : Option Sheet :=
  if isCompile s b && !s.frozen b then (s.staged b .b).filter fun r => !joinTest b r s else none

/-! ## SET EJECTED and the set purge (R89 to R91) -/

/-- The set of the named bin is delivered whole (R89). -/
def ejectSet (b : Bin) (s : State) : State :=
  match s.dlu.openSet with
  | some o =>
    if o.bin = b then
      let s := onJob o.job (fun j => { j with set := j.set - o.count, delivered := j.delivered + o.count }) s
      let s := releaseSet ⟨o.job, o.set⟩ (checkDone o.job s)
      (setLastDelivered b o.last s).onDlu fun d => { d with openSet := none }
    else s
  | none => s

/-- The claims that empty the compile bin's queue at a set purge, stage B and then stage A; the sheets removed (R90). -/
def purgeStage (b : Bin) (st : Stage) (s : State) : State × List (Tag × Seq) :=
  match s.staged b st with
  | some r => (removeSettling r.tag s, [(r.tag, r.seq)])
  | none => (s, [])

def purgeQueue (s : State) : State × List (Tag × Seq) :=
  match compileBin s with
  | some b =>
    let x := purgeStage b .b s
    let y := purgeStage b .a x.1
    (y.1, x.2 ++ y.2)
  | none => (s, [])

/-- One snapshot of a purged protected set enters the Reissue List with origin SET (R90, R134). -/
def reissueProtected (p : Protected) (s : State) : State :=
  watched (fun s =>
    reissue ⟨p.seq, p.job, p.snap, false, some .set, 0⟩ (onJob p.job (fun j => { j with set := j.set - 1 }) s)) s

/-- The set of the Open Set Record is purged: a protected set is reissued and the bin's order rolls back (R90), an
unprotected one is lost (R91). A protected set of a CANCELLING job is reissued like any other (log 29). -/
def purgeSet (s : State) : State :=
  match s.dlu.openSet with
  | none => s
  | some o =>
    match o.guarded with
    | some l =>
      let s := watched (relockSet ⟨o.job, o.set⟩) (l.foldl (fun s p => reissueProtected p s) s)
      (setLastDelivered o.bin o.before s).onDlu fun d => { d with openSet := none }
    | none =>
      let s := onJob o.job (fun j => { j with set := j.set - o.count, removed := j.removed + o.count }) s
      let s := watched (releaseSet ⟨o.job, o.set⟩) (checkDone o.job s)
      (post (.setLost o.job o.set) s).onDlu fun d => { d with openSet := none }

/-- The set a COMPILE TRAY REMOVE REQUEST names (R180). -/
def purgedSet (s : State) : Option PurgedSet := s.dlu.openSet.map fun o => ⟨o.job, o.set, o.count⟩

end Sys2Proof.Machine
end

