-- ==== Sys2Proof/Machine/Recovery.lean ====
section
/-!
DEFINITION. Machine/Recovery.lean: the Recovery Controller (09_incidents_and_recovery_priority.md,
10_jam_recovery_and_resume.md): the retry test, the phases of the four classes, the closing of a record, and the raising of
an occurrence, which is the part's counterpart of taking an exception.
-/
namespace Sys2Proof.Machine

/-! ## Records -/

def setPhase (c : IncClass) (p : Phase) (s : State) : State := onIncident c (fun i => { i with phase := p }) s

def setStatus (c : IncClass) (t : IncStatus) (s : State) : State := onIncident c (fun i => { i with status := t }) s

/-- INTERLOCK and JAM hold back the path and the gate (section 9.1). -/
def IncClass.holdsPath : IncClass → Bool
  | .interlock | .jam => true
  | .misfeed | .supply => false

/-! ## MISFEED and SUPPLY (R157 to R159) -/

/-- The misfeed retry count of a sequence: in the Reissue List, or in the Sheet Tracking Table; none when neither holds it
(R157). -/
def retryCount (s : State) (q : Seq) : Option Nat :=
  match s.ogt.ril.find? (·.seq = q) with
  | some e => some e.retries
  | none => (s.stk.sheets.find? (·.seq = q)).map (·.retries)

/-- The job slot of the place that holds the sequence. -/
def jobOfSeq (s : State) (q : Seq) : JobSlot :=
  match s.ogt.ril.find? (·.seq = q) with
  | some e => e.job
  | none => ((s.stk.sheets.find? (·.seq = q)).map (·.job)).getD 0

/-- The retry test (R157). -/
def retryTest (m : Misfeed) (s : State) : State :=
  match retryCount s m.seq with
  | none => s
  | some n =>
    if s.pds.timing.misfeedLimit < n then
      onIncident .misfeed (joinHold (.tray m.tray))
        (post (.misfeedReport m.tray m.tag m.seq (jobOfSeq s m.seq) n s.pds.timing.misfeedLimit)
          (s.onOgt fun g => { g with trays := upd g.trays m.tray fun f => { f with held := true } }))
    else s

/-- A tray of the MISFEED hold list whose held flag is set stays in it (R158). -/
def stillHeld (s : State) : Obj → Bool
  | .tray t => s.ogt.trays[t].held
  | .cover _ | .bin _ | .faultCode _ => false

/-- The SUPPLY hold list is not satisfied by this object (R159). -/
def stillLacking (s : State) : Obj → Bool
  | .tray t => s.ogt.trays[t].empty
  | .bin b => s.dlu.bins[b].full
  | .cover _ | .faultCode _ => false

def holdList (c : IncClass) (s : State) : List Obj := ((s.rcc.get c).map (·.hold)).getD []

/-- The test of TRAY-HOLD (R158). `close` closes a record. -/
def testTrayHold (close : IncClass → State → State) (s : State) : State :=
  let s := onIncident .misfeed (fun i => { i with phase := .trayHold, hold := i.hold.filter (stillHeld s) }) s
  if (holdList .misfeed s).isEmpty then close .misfeed s else s

/-- MISFEED enters RETRY: the first misfeed is tested and marked judged (R157). -/
def enterRetry (close : IncClass → State → State) (s : State) : State :=
  let s := match (s.rcc.misfeed).bind (·.misfeed) with
    | some m => if m.judged then s else retryTest m s
    | none => s
  let s := onIncident .misfeed
    (fun i => { i with phase := .retry, misfeed := i.misfeed.map fun m => { m with judged := true } }) s
  if (holdList .misfeed s).isEmpty then close .misfeed s else testTrayHold close s

/-- The close condition of SUPPLY (R159). -/
def testSupply (close : IncClass → State → State) (s : State) : State :=
  if (holdList .supply s).any (stillLacking s) then s else close .supply s

/-! ## JAM: STOP, ASSESS, CLEARANCE (R164 to R170) -/

/-- The JAM's own RUNOUT and DIVERT frames that wait are withdrawn (R164, R177). -/
def withdrawFrames (s : State) : State := s.onLi fun l => { l with runoutPlace := none, divertQueue := [] }

/-- The disposition by zone and sides (R165). -/
def zoneDisposition (rt : Route) (r : Sheet) : Disposition :=
  match lastZone rt r with
  | none | some .blank => .purge
  | some .imaged | some .finisher => .manual
  | some .finished => if sidesComplete rt r then .deliver else .purge

/-- The disposition ASSESS leaves on a STRANDED record (R165, R166). -/
def assessedDisposition (rt : Route) (named : List Tag) (r : Sheet) : Disposition :=
  let d := r.disposition.getD (zoneDisposition rt r)
  if r.disposition = none ∧ d = .purge ∧ pastDivert rt r = true then .manual
  else if routeComplete rt r then .manual
  else if named.contains r.tag then .manual
  else d

def jamDetails (s : State) : List Detail := (s.rcc.jam.map (·.details)).getD []

/-- Every STRANDED record is given its disposition (R165, R166). -/
def assessSheets (s : State) : State :=
  let named := (jamDetails s).filterMap (·.tag)
  s.onStk fun k => { k with
    sheets := k.sheets.map fun r =>
      if r.state = .stranded then { r with disposition := some (assessedDisposition (s.routeOf r) named r) } else r }

def strandedReport (s : State) (r : Sheet) : StrandedReport :=
  ⟨r.tag, r.seq, r.job, r.snap.route, s.binOf r, r.disposition, r.outOfOrder, r.occupied.map (·.ck)⟩

def suspectReport (s : State) (r : Sheet) : SuspectReport := ⟨r.tag, r.seq, s.binOf r, r.stage⟩

/-- JAM REPORT is posted (R167); suspects stand in feed order (log 18). -/
def postJamReport (s : State) : State :=
  match s.rcc.jam with
  | none => s
  | some i =>
    post (.jamReport i.first i.count i.details i.setPurge
      ((s.stk.sheets.filter fun r => decide (r.state = .stranded)).map (strandedReport s))
      ((s.stk.sheets.filter fun r => decide (r.state = .settling) && r.suspect).map (suspectReport s))) s

/-- The JAM enters CLEARANCE (R168). -/
def enterClearance (s : State) : State := post (.clearanceStatus (blockingList s)) (setPhase .jam .clearance s)

/-- The JAM enters ASSESS, does its work and goes on to CLEARANCE (R165 to R168). -/
def enterAssess (s : State) : State := enterClearance (postJamReport (assessSheets (setPhase .jam .assess s)))

/-- The JAM enters STOP (R164); in HALTED the request is answered at once (R55). -/
def enterStop (s : State) : State :=
  let s := withdrawFrames (setPhase .jam .stop s)
  if s.stk.path = .halted then enterAssess s else requestHalt s

/-- A resumed JAM in CLEARANCE does not assess again (R170). -/
def resumeClearance (s : State) : State := enterClearance (postJamReport s)

/-! ## JAM: REBUILD but for its close (R180, R181) -/

/-- The settle stages of all bins, bin by bin from B0, stage B before stage A. -/
def allStages : List (Bin × Stage) := (List.finRange 6).flatMap fun b => [(b, .b), (b, .a)]

/-- Ends REMOVED the suspects of a list of stages; the answer also lists the sheets taken, each with its bin, in the order of
their taking: stage B before stage A (log 34). -/
def removeSuspects : List (Bin × Stage) → State → State × List (Bin × Tag × Seq)
  | [], s => (s, [])
  | (b, st) :: rest, s =>
    match (s.staged b st).filter (·.suspect) with
    | some r =>
      let x := removeSuspects rest (removeSettling r.tag s)
      (x.1, (b, r.tag, r.seq) :: x.2)
    | none => removeSuspects rest s

/-- One REMOVE REQUEST with reason SUSPECT for each bin concerned, in bin order (R173, R180). -/
def postSuspectRequests (taken : List (Bin × Tag × Seq)) (s : State) : State :=
  (List.finRange 6).foldl (fun s b =>
    match (taken.filter fun x => decide (x.1 = b)).map (·.2) with
    | [] => s
    | xs => post (.removeRequest .suspect b xs none) s) s

/-- The set purge of REBUILD, with its REMOVE REQUEST (R90, R91, R180). -/
def purgeCompile (s : State) : State :=
  let set := purgedSet s
  let q := purgeQueue s
  let s' := purgeSet q.1
  match compileBin s with
  | some b => post (.removeRequest .compileTray b q.2 set) s'
  | none => s'

/-- Relock for reissue of every page of the Reissue List, in list order (R181). -/
def relockReissues (s : State) : State :=
  s.ogt.ril.foldl (fun s e => e.snap.keys.foldl (fun s k => watched (relockLine e.seq k) s) s) s

/-- REBUILD up to the close of the record (R180, R181). -/
def rebuildWork (s : State) : State :=
  let x := removeSuspects allStages (setPhase .jam .rebuild s)
  let s := postSuspectRequests x.2 x.1
  relockReissues (if setPurge s then purgeCompile s else s)

/-! ## Closing and the next ACTIVE record (R153, R155, R160) -/

/-- An INTERLOCK enters OPEN: the timer is stopped and the path is halted (R151, R155). -/
def enterOpen (s : State) : State :=
  requestHalt ((setPhase .interlock .opened s).onRcc fun r => { r with coverTimer := none })

/-- A record that becomes ACTIVE for the first time enters its phase at opening (R150, R153). -/
def startPhase (close : IncClass → State → State) (c : IncClass) (s : State) : State :=
  match c with
  | .interlock => enterOpen s
  | .jam => enterStop s
  | .misfeed => enterRetry close s
  | .supply => testSupply close s

/-- A JAM resumes by its saved phase (R160). -/
def resumeJam (close : IncClass → State → State) (p : Phase) (s : State) : State :=
  match p with
  | .stop => enterStop s
  | .assess => enterAssess s
  | .clearance | .dispose | .runout => resumeClearance s
  | .rebuild => close .jam (rebuildWork s)
  | .opened | .shutWait | .retry | .trayHold | .hold => s

/-- A MISFEED resumes in TRAY-HOLD, or in RETRY when its first misfeed is not judged (R158). -/
def resumeMisfeed (close : IncClass → State → State) (s : State) : State :=
  match (s.rcc.misfeed).bind (·.misfeed) with
  | some m => if m.judged then testTrayHold close s else enterRetry close s
  | none => testTrayHold close s

/-- A record taken from the stack resumes by its saved phase (R153). -/
def resumePhase (close : IncClass → State → State) (c : IncClass) (s : State) : State :=
  match c with
  | .interlock => enterOpen s
  | .jam => resumeJam close ((s.rcc.jam.map (·.phase)).getD .stop) s
  | .misfeed => resumeMisfeed close s
  | .supply => testSupply close s

/-- Which record acts next: the highest PENDING one, or that of the top frame; the PENDING one only when its priority is
higher (R153). -/
def Recovery.choose (r : Recovery) : Option IncClass :=
  match r.firstPending, r.stack with
  | some p, t :: _ => if p.level < t.level then some p else some t
  | some p, [] => some p
  | none, t :: _ => some t
  | none, [] => none

/-- Step 4 of R153: the chosen record becomes ACTIVE and starts, or leaves the stack and resumes. -/
def activate (close : IncClass → State → State) (c : IncClass) (s : State) : State :=
  if s.rcc.statusOf c = some .pending then startPhase close c (setStatus c .active s)
  else resumePhase close c (setStatus c .active (s.onRcc fun r => { r with stack := r.stack.tail }))

/-- Step 1 of R153: the record becomes CLEAR; the cover-settle timer stops with the INTERLOCK (R156). -/
def clearRecord (c : IncClass) (s : State) : State :=
  s.onRcc fun r =>
    let r := r.set c none
    if c = .interlock then { r with coverTimer := none } else r

/-- Step 5 of R153: the last open INTERLOCK or JAM has closed, so the path resumes. -/
def resumePath (c : IncClass) (s : State) : State :=
  if c.holdsPath && !s.rcc.holdsPath then requestResume s else s

/-- Closing a record (R153). A close can lead at once to the close of the record chosen next, of another class each time,
so four levels of `fuel` suffice. -/
def closeRecord : Nat → IncClass → State → State
  | 0, _, s => s
  | fuel + 1, c, s =>
    match s.rcc.get c with
    | none => s
    | some i =>
      let s := clearRecord c s
      let next := s.rcc.choose
      let s := post (.incidentClosed c i.first i.count next) s
      let s := match next with
        | some d => activate (closeRecord fuel) d s
        | none => s
      resumePath c s

/-- Close the record of a class. -/
def close (c : IncClass) (s : State) : State := closeRecord 4 c s

/-! ## Taking an occurrence (R149 to R151) -/

/-- The record ACTIVE is preempted: its frame is pushed, and a JAM in RUNOUT withdraws its frames (R150, R177). -/
def preempt (c : IncClass) (s : State) : State :=
  let s := if s.rcc.activeIn .jam .runout && decide (c = .jam) then withdrawFrames s else s
  (setStatus c .preempted s).onRcc fun r => { r with stack := c :: r.stack }

/-- Steps 1 to 3 of R150: the record is filled and placed, and INCIDENT OPENED posted. -/
def placeRecord (o : Occurrence) (s : State) : State :=
  let status := s.rcc.statusFor o.cls
  let victim := s.rcc.preemptedBy o.cls
  let s := match victim with
    | some a => preempt a s
    | none => s
  post (.incidentOpened o.cls o.detail.cause o.detail status victim)
    (s.onRcc fun r => r.set o.cls (some (fillRecord o status)))

/-- Step 4 of R150: an INTERLOCK or JAM is reported to the Order Gate, which withdraws an admission (R138) and judges its head
(R135). -/
def reportOpening (o : Occurrence) (before s : State) : State :=
  if o.cls.holdsPath then watchGate before (withdrawAdmission s) else s

/-- An occurrence opens its class's record (R150). -/
def openRecord (o : Occurrence) (s : State) : State :=
  let t := reportOpening o s (placeRecord o s)
  if s.rcc.statusFor o.cls = .active then startPhase close o.cls t else t

/-- The merge effect on a JAM (R151). -/
def mergeJam (status : IncStatus) (s : State) : State :=
  match status with
  | .active => enterStop s
  | .preempted => setPhase .jam .stop s
  | .pending => s

/-- The merge effect on a SUPPLY (R151). -/
def mergeSupply (o : Occurrence) (status : IncStatus) (s : State) : State :=
  let s := match o.detail.obj with
    | some x => onIncident .supply (joinHold x) s
    | none => s
  if status = .active then testSupply close s else s

/-- An occurrence merges into its class's open record (R151). -/
def mergeOccurrence (o : Occurrence) (i : Incident) (s : State) : State :=
  let s := onIncident o.cls (mergeRecord o) s
  match o.cls with
  | .interlock => enterOpen s
  | .jam => mergeJam i.status s
  | .misfeed =>
    match o.misfeed with
    | some m => retryTest m s
    | none => s
  | .supply => mergeSupply o i.status s

/-- The Recovery Controller takes an occurrence: dropped in SETUP, else it opens its record or merges (R149). -/
def raise (o : Occurrence) (s : State) : State :=
  if s.pds.mode = .setup then s
  else match s.rcc.get o.cls with
    | none => openRecord o s
    | some i => mergeOccurrence o i s

/-- A JAM occurrence raised by the Delivery Unit or without a checkpoint of its own (R58, R78, R82, R84). -/
def raiseJam (cause : Cause) (ck : Option Checkpoint) (tag : Option Tag) (obj : Option Obj) (s : State) : State :=
  raise ⟨.jam, ⟨cause, ck, tag, obj⟩, none⟩ s

/-- A SUPPLY occurrence (R84, R141). -/
def raiseSupply (cause : Cause) (obj : Obj) (s : State) : State := raise ⟨.supply, ⟨cause, none, none, some obj⟩, none⟩ s

/-- An INTERLOCK occurrence naming a cover (R149). -/
def raiseInterlock (c : Cover) (s : State) : State :=
  raise ⟨.interlock, ⟨.coverOpen, none, none, some (.cover c)⟩, none⟩ s

/-- The sheets in stage A of the bins whose exit checkpoint this is are marked suspect (R83). -/
def markExitSuspects (ck : Checkpoint) (s : State) : State :=
  (List.finRange 6).foldl (fun s b =>
    if isExitOf s.pds b ck then
      match s.staged b .a with
      | some r => markSuspect r.tag s
      | none => s
    else s) s

/-- A JAM occurrence of the Sheet Tracker at a checkpoint; the Delivery Unit is shown it (R58, R83). -/
def raiseAt (cause : Cause) (ck : Checkpoint) (tag : Option Tag) (s : State) : State :=
  raiseJam cause (some ck) tag none (if s.pds.mode = .running then markExitSuspects ck s else s)

/-! ## Reports (R154) -/

/-- A change of a tray's empty flag or of a bin's state (R154, R159). -/
def supplyReport (s : State) : State := if s.rcc.activeIn .supply .hold then testSupply close s else s

/-- TRAY READY carried out (R154, R158). -/
def trayReadyReport (s : State) : State := if s.rcc.activeIn .misfeed .trayHold then testTrayHold close s else s

/-- REBUILD whole (R180, R181). -/
def enterRebuild (s : State) : State := close .jam (rebuildWork s)

/-- HALTED is reported (R154, R164, R179). -/
def haltedReport (s : State) : State :=
  if s.rcc.activeIn .jam .stop then enterAssess s
  else if s.rcc.activeIn .jam .runout && (s.rcc.jam.map (·.runoutDone)).getD false then enterRebuild s
  else s

/-- Run-out complete is reported (R179). -/
def runoutCompleteReport (s : State) : State :=
  if s.rcc.activeIn .jam .runout then requestHalt (onIncident .jam (fun i => { i with runoutDone := true }) s) else s

/-- A record has left RUNOUT: run-out complete when none remains in RUNNING_OUT (R74). -/
def checkRunoutComplete (s : State) : State :=
  if s.stk.path = .runningOut ∧ s.stk.sheets.all (fun r => decide (r.state ≠ .runout)) = true then runoutCompleteReport s
  else s

/-! ## DISPOSE (R171 to R173) -/

/-- The SETTLING sheets of a bin with a greater sequence are marked suspect (R171, R175). -/
def markLater (b : Bin) (q : Seq) (s : State) : State :=
  let later := s.stk.sheets.filter fun r => decide (r.state = .settling ∧ s.binOf r = b ∧ q < r.seq)
  later.foldl (fun s r => markSuspect r.tag s) s

/-- End REMOVED a STRANDED record in pass 1 or 3 of R171, and mark the later sheets of its bin. -/
def removeStranded (t : Tag) (s : State) : State :=
  match s.sheet? t with
  | none => s
  | some r =>
    let s' := endSheet t .removed s
    if cancelling s r.job then s' else markLater (s.binOf r) r.seq s'

/-- End REMOVED each STRANDED record of a kind, in feed order. -/
def removePass (p : Sheet → Bool) (s : State) : State :=
  ((s.stk.sheets.filter fun r => decide (r.state = .stranded) && p r).map (·.tag)).foldl
    (fun s t => removeStranded t s) s

/-- The operator has taken the sheet: one of its checkpoints is clear (R171). -/
def pulled (s : State) (r : Sheet) : Bool :=
  decide (r.disposition = some .deliver ∨ r.disposition = some .purge) &&
    r.occupied.any fun e => !s.stk.levels.getLsbD e.ck

/-- Sheets in increasing delivery sequence. -/
def insertSheet (r : Sheet) : List Sheet → List Sheet
  | [] => [r]
  | x :: xs => if r.seq < x.seq then r :: x :: xs else x :: insertSheet r xs

def bySeq (l : List Sheet) : List Sheet := l.foldr insertSheet []

/-- The bin order rule's test of a record (R172); `named` are the tags named for exit removal so far. -/
def orderBlocked (s : State) (b : Bin) (named : List Tag) (r : Sheet) : Bool :=
  s.ogt.ril.any (fun e => decide (e.seq < r.seq ∧ (s.route e.snap.route).bin = b)) ||
  s.stk.sheets.any (fun x => decide (x.state = .stranded ∧ s.binOf x = b ∧ x.seq < r.seq) && !cancelling s x.job &&
    (decide (x.disposition = some .purge) || named.contains x.tag)) ||
  (setPurge s && decide (compileBin s = some b))

/-- The bin order rule on some records of a bin, in increasing sequence. -/
def orderSheets (b : Bin) : List Sheet → State → List Tag → State × List Tag
  | [], s, named => (s, named)
  | r :: rs, s, named =>
    if orderBlocked s b named r then
      if pastDivert (s.routeOf r) r then orderSheets b rs s (named ++ [r.tag])
      else orderSheets b rs (setDisposition r.tag .purge s) named
    else orderSheets b rs s named

/-- The bin order rule over some bins (R172); the answer names the sheets for exit removal. -/
def orderBins : List Bin → State → List Tag → State × List Tag
  | [], s, named => (s, named)
  | b :: bs, s, named =>
    let rs := bySeq (s.stk.sheets.filter fun r =>
      decide (r.state = .stranded ∧ r.disposition = some .deliver ∧ s.binOf r = b))
    let x := orderSheets b rs s named
    orderBins bs x.1 x.2

/-! ## RUNOUT (R174 to R176) -/

/-- The run-out request: carried out in HALTED; in the other Path States it changes nothing (R55, R71). -/
def beginRunout (s : State) : State :=
  if s.stk.path = .halted then
    s.onStk fun k => { k with
      path := .runningOut
      sheets := k.sheets.map fun r => r.beginRunout (s.routeOf r) s.ckm.tc }
  else s

/-- Where a run-out takes a sheet (R174). -/
def runoutDest (s : State) (r : Sheet) : Dest :=
  if r.disposition = some .deliver then .bin (s.binOf r) else .purgeBin

/-- The JAM enters RUNOUT (R174). -/
def enterRunout (named : List Tag) (s : State) : State :=
  let s := onIncident .jam (fun i => { i with phase := .runout, runoutDone := false }) s
  let s := beginRunout s
  let s := ((s.stk.sheets.filter fun r => named.contains r.tag).map (·.tag)).foldl (fun s t => markOutOfOrder t s) s
  s.onLi (Link.placeRunout
    ((s.stk.sheets.filter fun r => decide (r.state = .runout)).map fun r => (r.tag, runoutDest s r)))

/-- DISPOSE, and what it leads to (R171 to R174). -/
def enterDispose (s : State) : State :=
  let s := removePass (fun r => decide (r.disposition = some .manual)) (setPhase .jam .dispose s)
  let x := removeSuspects allStages s
  let s := removePass (pulled x.1) x.1
  let y := orderBins (List.finRange 6) s []
  let s := postSuspectRequests x.2 y.1
  if s.stk.sheets.any fun r => decide (r.state = .stranded) then enterRunout y.2 s else enterRebuild s

/-- The divert of one RUNOUT record (R176). -/
def divert (s : State) (t : Tag) : State :=
  match s.sheet? t with
  | none => s
  | some r =>
    if r.state = .runout ∧ r.disposition = some .deliver then
      if pastDivert (s.routeOf r) r then markOutOfOrder t s
      else (claimDivert (s.routeOf r) t s).onLi (Link.placeDivert t)
    else s

/-- Absence is reported for the record as it was, with its job's cancelling state (R175). -/
def absenceReport (r : Sheet) (b : Bin) (cancelled : Bool) (s : State) : State :=
  if s.rcc.activeIn .jam .runout && decide (r.disposition = some .deliver) && !cancelled then
    let later := bySeq (s.stk.sheets.filter fun x =>
      decide (x.state = .runout ∧ x.disposition = some .deliver ∧ s.binOf x = b ∧ r.seq < x.seq))
    markLater b r.seq ((later.map (·.tag)).foldl divert s)
  else s

end Sys2Proof.Machine
end

