-- ==== Sys2Proof/Machine/Capture.lean ====
section
/-!
DEFINITION. Machine/Capture.lean: the Capture/Replay Engine and its port (07_band_capture_and_replay.md), with the CALL check
of the Sheet Tracker (R67) and imaging done (R68): BAND, CALL, HALT_SENT, BANDOUT_SENT, BANDOUT_GIVEN, WRITE_TRANSFER_END,
READ_TRANSFER_END.
-/
namespace Sys2Proof.Machine

/-! ## The Memory Port Arbiter (R125 to R127) -/

def Holder.other : Holder → Holder
  | .capture => .replay
  | .replay => .capture

def Capture.waiting (c : Capture) : Holder → Bool
  | .capture => c.captureWaiting
  | .replay => c.replayWaiting

def Capture.setWaiting (h : Holder) (w : Bool) (c : Capture) : Capture :=
  match h with
  | .capture => { c with captureWaiting := w }
  | .replay => { c with replayWaiting := w }

/-- A request (R125). -/
def Capture.request (h : Holder) (c : Capture) : Capture :=
  match c.port with
  | none => { c with port := some h, lastHolder := some h, run := if c.lastHolder = some h then c.run else 0 }
  | some _ => c.setWaiting h true

/-- The hold limit of a holder (R126). -/
def Timing.holdLimit (t : Timing) : Holder → Nat
  | .capture => t.captureHold
  | .replay => t.replayHold

/-- The port passes to the requester that waits (R126). -/
def Capture.handOver (h : Holder) (c : Capture) : Capture :=
  { c.setWaiting h.other false with port := some h.other, lastHolder := some h.other, run := 0 }

/-- A boundary of the holder's transfer; `continues` says whether it asks to continue (R126). -/
def Capture.boundary (limit : Nat) (h : Holder) (continues : Bool) (c : Capture) : Capture :=
  if c.waiting h.other then
    if continues && decide (c.run + 1 < limit) then { c with port := some h, lastHolder := some h, run := c.run + 1 }
    else if continues then (c.handOver h).setWaiting h true
    else c.handOver h
  else if continues then { c with port := some h, lastHolder := some h, run := 0 }
  else { c with port := none }

def boundary (h : Holder) (continues : Bool) (s : State) : State :=
  s.onCre (Capture.boundary (s.pds.timing.holdLimit h) h continues)

def request (h : Holder) (s : State) : State := s.onCre (Capture.request h)

/-! ## The capture writer (R117 to R119) -/

/-- A band meets the part in SETUP (R32). -/
def discardMode (b : Band) (s : State) : State := post (.pageDiscard b.key b.index .mode) s

/-- A band is presented; the answer says whether it was placed (R118). -/
def present (b : Band) (s : State) : State × Bool :=
  if s.pds.mode = .setup then (discardMode b s, false)
  else
    let x := place b.key b.index b.final b.data.length s
    match x.2 with
    | some n => (x.1.onCre fun c => { c with write := some (b, n) }, true)
    | none => (x.1, false)

/-- A band is taken from the FIFO by the ready capture writer (R117). -/
def takeBand (b : Band) (s : State) : State :=
  if s.pds.mode = .running ∧ s.cre.write.isSome = true then s.onCre fun c => { c with take := some b }
  else
    let x := present b s
    if x.2 then request .capture x.1 else x.1

/-- BAND (R5, R117). -/
def band (s : State) : State :=
  match s.li.fifo with
  | [] => s
  | f :: rest =>
    if f.kind = kindBand ∧ s.cre.take = none then takeBand (bandBody f.body) (s.onLi fun l => { l with fifo := rest })
    else s

def execBand (s : State) : Host.Outcome State Fault Refusal := event band s

/-- The data and the length record of a band are stored (R118). -/
def storeBand (b : Band) (n : Nat) (s : State) : State :=
  s.onCre fun c =>
    { c with dram := Memory.writeRun c.dram (blockBase n) b.data, lengths := Cells.put c.lengths n b.data.length }

/-- The take place, if it holds a band, presents it (R119). -/
def presentWaiting (s : State) : State × Bool :=
  match s.cre.take with
  | none => (s, false)
  | some b => present b (s.onCre fun c => { c with take := none })

/-- Steps 1 and 2 of R119: the write has completed, and the write place empties. -/
def completeWrite (b : Band) (n : Nat) (s : State) : State :=
  (writeCompleted b.key b.final (storeBand b n s)).onCre fun c => { c with write := none }

/-- Step 3 of R119, and the boundary of the transfer (R126). -/
def nextWrite (s : State) : State :=
  let x := presentWaiting s
  boundary .capture x.2 x.1

/-- WRITE_TRANSFER_END (R119). A BAND at the head of the FIFO is not taken here but in a later step, after the boundary, also
when the waiting band was discarded (log 30). -/
def writeTransferEnd (s : State) : State :=
  match s.cre.port, s.cre.write with
  | some .capture, some (b, n) => watched nextWrite (watched (completeWrite b n) s)
  | _, _ => s

/-- The two changes of the command are watched one by one, so the command is not watched again as a whole: a mark that the
discard of the waiting band clears stays clear until the next judgement (R140). -/
def execWriteTransferEnd (s : State) : Host.Outcome State Fault Refusal :=
  if s.porst then .next s else .next (writeTransferEnd s)

/-! ## The replay reader (R120 to R124) -/

/-- A replay starts, or the called side has no page (R121). -/
def tryReplay (c : CallReq) (s : State) : State :=
  match s.pgd.replayLine c.key with
  | some (i, l) => request .replay ((pinLine i l s).onCre fun r => { r with reader := .streaming c l.chain 0 })
  | none => raiseJam .callFault none (some c.tag) none s

/-- The reader has become IDLE: the pending call, if any, starts (R120). -/
def startPending (s : State) : State :=
  match s.cre.pendingCall with
  | none => s
  | some c => tryReplay c (s.onCre fun r => { r with pendingCall := none })

/-- A replay starts; when it cannot, a pending call starts next (R121). -/
def startReplay (c : CallReq) (s : State) : State :=
  let s := tryReplay c s
  if s.cre.reader = .idle then startPending s else s

/-- A CALL that passed its check reaches the reader (R120). -/
def handCall (c : CallReq) (s : State) : State :=
  if s.cre.reader = .idle then startReplay c s
  else if s.cre.pendingCall.isSome then raiseJam .callFault none (some c.tag) none s
  else s.onCre fun r => { r with pendingCall := some c }

/-- The next side to image (R67, R68). -/
def nextSide (rt : Route) (r : Sheet) : Option Side :=
  match r.sides with
  | .none => some .front
  | .front => if rt.duplex then some .back else none
  | .both => none

/-- The Capture/Replay Engine holds a replay for the sheet, current or pending (R67, R120). -/
def Capture.holdsReplay (c : Capture) (t : Tag) : Bool :=
  (match c.reader with
    | .streaming r _ _ => decide (r.tag = t)
    | .idle | .draining => false) || ((c.pendingCall.map fun r => decide (r.tag = t)).getD false)

/-- The CALL check of R67. -/
def callPasses (s : State) (r : Sheet) (side : Side) : Bool :=
  decide ((r.state = .admitted ∨ r.state = .moving) ∧ nextSide (s.routeOf r) r = some side) && !s.cre.holdsReplay r.tag

/-- The page key of a side (R67). -/
def Snapshot.keyOf (n : Snapshot) : Side → PageKey
  | .front => n.front
  | .back => n.back.getD n.front

/-- CALL (R8, R33, R57, R67). -/
def call (t : Tag) (side : Side) (s : State) : State :=
  if s.pds.mode = .setup ∨ s.stk.path = .halting ∨ s.stk.path = .halted then s
  else
    match (s.sheet? t).filter fun r => callPasses s r side with
    | some r => handCall ⟨t, side, r.snap.keyOf side⟩ s
    | none => raiseJam .callFault none (some t) none s

def execCall (t : Tag) (side : Side) (s : State) : Host.Outcome State Fault Refusal := event (call t side) s

/-- The band of a chain position, as a read brings it (R122). -/
def readBand (chain : List Nat) (i : Nat) (c : Capture) : ReadBand :=
  let block := chain.getD i 0
  ⟨i, decide (i + 1 = chain.length), Memory.readRun c.dram (blockBase block) ((Cells.find c.lengths block).getD 0)⟩

/-- A band is given to the BANDOUT place (R122). -/
def giveBand (c : CallReq) (b : ReadBand) (s : State) : State :=
  (s.onLi (Link.placeBandout ⟨c.tag, c.side, b.index, b.final, b.data⟩)).onCre fun r => { r with buffer := none }

/-- A read transfer of the current replay ends (R122). -/
def readEndStreaming (c : CallReq) (chain : List Nat) (next : Nat) (s : State) : State :=
  let b := readBand chain next s.cre
  let s := s.onCre fun r => { r with reader := .streaming c chain (next + 1), buffer := some b }
  if s.li.bandoutPlace.isNone then boundary .replay (decide (next + 1 < chain.length)) (giveBand c b s)
  else boundary .replay false s

/-- READ_TRANSFER_END (R122, R124). -/
def readTransferEnd (s : State) : State :=
  if s.cre.port = some .replay then
    match s.cre.reader with
    | .streaming c chain next => readEndStreaming c chain next s
    | .draining => startPending ((boundary .replay false s).onCre fun r => { r with reader := .idle })
    | .idle => boundary .replay false s
  else s

def execReadTransferEnd (s : State) : Host.Outcome State Fault Refusal := event readTransferEnd s

/-- BANDOUT_GIVEN: the held band goes to the emptied place (R122). -/
def bandoutGiven (s : State) : State :=
  match s.cre.reader, s.cre.buffer, s.li.bandoutPlace with
  | .streaming c chain next, some b, none =>
    let s := giveBand c b s
    if next < chain.length then request .replay s else s
  | _, _, _ => s

def execBandoutGiven (s : State) : Host.Outcome State Fault Refusal := event bandoutGiven s

/-- Imaging done at the Sheet Tracker (R68). -/
def imagingDoneSheet (t : Tag) (side : Side) (s : State) : State :=
  match s.sheet? t with
  | some r =>
    if nextSide (s.routeOf r) r = some side then
      updSheet t (fun r => { r with sides := if side = .front then .front else .both }) s
    else s
  | none => s

/-- Imaging done, after which the reader is IDLE (R123). -/
def imagingDone (c : CallReq) (s : State) : State :=
  startPending ((imagingDoneSheet c.tag c.side (watched (imagingDoneLine c.key) s)).onCre fun r =>
    { r with reader := .idle })

/-- Whether a sent BANDOUT carries the final band of the current replay (R123). -/
def finalOf (b : BandOut) (s : State) : Option CallReq :=
  match s.cre.reader with
  | .streaming c chain next =>
    if b.final = true ∧ b.tag = c.tag ∧ b.side = c.side ∧ next = chain.length ∧ s.cre.buffer = none ∧
      s.li.bandoutPlace = none then some c else none
  | .idle | .draining => none

/-- BANDOUT_SENT (R12, R123): imaging done, and the start of a pending call, come before the freed transmitter begins its next
frame (log 31). -/
def bandoutSent (s : State) : State :=
  match s.li.eTx with
  | some (.bandout b) =>
    let s := s.onLi fun l => { l with eTx := none }
    let s := match finalOf b s with
      | some c => imagingDone c s
      | none => s
    s.onLi Link.startE
  | _ => s

def execBandoutSent (s : State) : Host.Outcome State Fault Refusal := event bandoutSent s

/-! ## HALT sent (R13, R41, R44, R124) -/

/-- A waiting replay request is withdrawn (R127). -/
def Capture.withdrawReplay (c : Capture) : Capture :=
  { c with replayWaiting := false, run := if c.replayWaiting then 0 else c.run }

/-- The reader at HALT sent (R124). -/
def abandonReplay (s : State) : State :=
  match s.cre.reader with
  | .streaming c _ _ =>
    (unpinAbandoned c.key s).onCre fun r =>
      let r := { r with buffer := none, pendingCall := none }
      if r.port = some .replay then { r with reader := .draining } else { r.withdrawReplay with reader := .idle }
  | .draining => s.onCre fun r => { r with pendingCall := none }
  | .idle => s

/-- The divider and the still detector at HALT sent (R41, R44). -/
def Monitor.haltSent (m : Monitor) : Monitor := { m with partialCount := 0, stillCount := 0, still := .watching }

/-- HALT_SENT (R13). -/
def haltSent (s : State) : State :=
  match s.li.eTx with
  | some .halt =>
    (abandonReplay ((s.onLi fun l => { l with eTx := none, bandoutPlace := none }).onCkm Monitor.haltSent)).onLi
      Link.startE
  | _ => s

def execHaltSent (s : State) : Host.Outcome State Fault Refusal := event haltSent s

end Sys2Proof.Machine
end

