-- ==== Sys2Proof/Machine/LinkEvents.lean ====
section
/-!
DEFINITION. Machine/LinkEvents.lean: PORST, the reception of frames, the engine's status, ENGCMD, and the ends of
transmissions (01_the_page_path_link.md; R70, R84, R89, R141 for what a status does).
-/
namespace Sys2Proof.Machine

/-! ## PORST (R16) -/

/-- PORST is asserted: a frame being sent is cut off (R16; log 8). -/
def assertPorst (s : State) : State :=
  if s.porst then s else { s with porst := true, li := { s.li with uTx := none, eTx := none } }

def execPorstAssert (s : State) : Host.Outcome State Fault Refusal := .next (assertPorst s)

/-- PORST is released: every block takes its power-on values (R16, R47); commands that wait keep waiting. -/
def releasePorst (s : State) : State := if s.porst then { State.reset with pending := s.pending } else s

def execPorstRelease (s : State) : Host.Outcome State Fault Refusal := .next (releasePorst s)

/-! ## Engine status (R9, R70, R84, R89, R141) -/

def setTrayFlags (t : Tray) (f : TrayFlags → TrayFlags) (s : State) : State :=
  s.onOgt fun g => { g with trays := upd g.trays t f }

/-- The empty flag of a tray is set or cleared; a change is reported to the Recovery Controller (R141, R154). -/
def setEmpty (t : Tray) (v : Bool) (s : State) : State :=
  let s' := setTrayFlags t (fun f => { f with empty := v, supplyReported := f.supplyReported && v }) s
  if s.ogt.trays[t].empty = v then s' else supplyReport s'

/-- The state of a bin changes; a change is reported to the Recovery Controller (R84, R154). -/
def setFull (b : Bin) (v : Bool) (s : State) : State :=
  let s' := onBin b (fun x => { x with full := v }) s
  if s.dlu.bins[b].full = v then s' else supplyReport s'

/-- Mark suspect the sheet in a stage, if one stands there. -/
def markStage (b : Bin) (st : Stage) (s : State) : State :=
  match s.staged b st with
  | some r => markSuspect r.tag s
  | none => s

/-- A bin fault: a BIN FULL over a queue that holds a sheet (R84). -/
def binFault (b : Bin) (s : State) : State :=
  if s.queueEmpty b then s
  else raiseJam .sequence none none (some (.bin b)) (markStage b .b (markStage b .a s))

/-- BIN FULL (R33, R84). -/
def readBinFull (b : Bin) (s : State) : State :=
  let s := watched (setFull b true) s
  if s.pds.mode = .running then raiseSupply .binFull (.bin b) (binFault b s) else s

/-- ENGINE FAULT (R33, R70). -/
def readEngineFault (code : List Byte) (s : State) : State := raiseJam .engine none none (some (.faultCode code)) s

/-- COMPILE FAULT of the compile bin (R9, R33, R70). -/
def readCompileFault (b : Bin) (s : State) : State :=
  if compileBin s = some b then raiseJam .compile none none (some (.bin b)) s else s

/-- What the reading block does with a status (R9). -/
def readStatusFrame : Status → State → State
  | .trayEmpty t => setEmpty t true
  | .trayFilled t => setEmpty t false
  | .binFull b => readBinFull b
  | .binCleared b => setFull b false
  | .setEjected b => ejectSet b
  | .compileFault b => readCompileFault b
  | .engineFault code => readEngineFault code

/-- A good ENGSTAT is read, then passed up (R9). -/
def engstat (f : Frame) (s : State) : State :=
  (match statusOf f.body with
    | some x => readStatusFrame x s
    | none => s).onLi (Link.passUp f)

/-- The ENGSTAT frame of a status row. -/
def statusFrame (kind : Byte) (fields : List Byte) : Frame := Frame.make kindEngstat (kind :: fields)

/-- An index as a byte. -/
def indexByte (n : Fin 6) : Byte := BitVec.ofNat 8 n.val

def execTrayEmpty (t : Tray) (rest : List Byte) (s : State) : Host.Outcome State Fault Refusal :=
  event (fun s => (setEmpty t true s).onLi (Link.passUp (statusFrame 1 (indexByte t :: rest)))) s

def execTrayFilled (t : Tray) (rest : List Byte) (s : State) : Host.Outcome State Fault Refusal :=
  event (fun s => (setEmpty t false s).onLi (Link.passUp (statusFrame 2 (indexByte t :: rest)))) s

def execBinFull (b : Bin) (rest : List Byte) (s : State) : Host.Outcome State Fault Refusal :=
  event (fun s => (readBinFull b s).onLi (Link.passUp (statusFrame 3 (indexByte b :: rest)))) s

def execBinCleared (b : Bin) (rest : List Byte) (s : State) : Host.Outcome State Fault Refusal :=
  event (fun s => (setFull b false s).onLi (Link.passUp (statusFrame 4 (indexByte b :: rest)))) s

def execSetEjected (b : Bin) (rest : List Byte) (s : State) : Host.Outcome State Fault Refusal :=
  event (fun s => (ejectSet b s).onLi (Link.passUp (statusFrame 5 (indexByte b :: rest)))) s

def execCompileFault (b : Bin) (rest : List Byte) (s : State) : Host.Outcome State Fault Refusal :=
  event (fun s => (readCompileFault b s).onLi (Link.passUp (statusFrame 6 (indexByte b :: rest)))) s

def execEngineFault (code : List Byte) (s : State) : Host.Outcome State Fault Refusal :=
  event (fun s => (readEngineFault code s).onLi (Link.passUp (statusFrame 7 code))) s

/-- Whether R9 leaves an ENGSTAT body unread. -/
def unread (s : State) (body : List Byte) : Bool :=
  match statusOf body with
  | none => true
  | some (.compileFault b) => decide (compileBin s ≠ some b)
  | some _ => false

/-- ENGSTAT_UNREAD: the frame is only passed up (R9); a body that a block reads is not this event. -/
def engstatUnread (body : List Byte) (s : State) : State :=
  if unread s body then s.onLi (Link.passUp (Frame.make kindEngstat body)) else s

def execEngstatUnread (body : List Byte) (s : State) : Host.Outcome State Fault Refusal := event (engstatUnread body) s

/-! ## Reception (R1 to R3, R8, R9) -/

/-- A good frame is handled at its arrival: into the FIFO from the U-port, to its block from the E-port (R3, R8, R9). -/
def goodFrame (port : Port) (f : Frame) (s : State) : State :=
  match port with
  | .u => s.onLi (Link.enter f)
  | .e => if f.kind = kindCall then call (callBody f.body).1 (callBody f.body).2 s else engstat f s

/-- FRAME_RECEIVED (R1). -/
def receive (port : Port) (bytes : List Byte) (s : State) : State :=
  match judge port bytes with
  | .check kind => s.onLi (Link.discardCheck port kind)
  | .format kind => s.onLi (Link.discardFormat port kind)
  | .good f => goodFrame port f s

def execFrameReceived (port : Port) (bytes : List Byte) (s : State) : Host.Outcome State Fault Refusal :=
  event (receive port bytes) s

/-! ## ENGCMD and the ends of transmissions (R5, R11, R12) -/

/-- ENGCMD at the FIFO head is taken when its place is empty (R5, R12). -/
def engcmd (s : State) : State :=
  match s.li.fifo with
  | [] => s
  | f :: rest =>
    if f.kind = kindEngcmd ∧ s.li.engcmdPlace = none then s.onLi fun l => Link.placeEngcmd f { l with fifo := rest } else s

def execEngcmd (s : State) : Host.Outcome State Fault Refusal := event engcmd s

/-- The end of a U-port transmission (R11). -/
def uFrameSent (s : State) : State :=
  if s.li.uTx.isSome then s.onLi fun l => Link.startU { l with uTx := none } else s

def execUFrameSent (s : State) : Host.Outcome State Fault Refusal := event uFrameSent s

/-- The end of a FEED, RUNOUT, DIVERT or ENGCMD (R12). -/
def eFrameSent (s : State) : State :=
  match s.li.eTx with
  | some (.feed _) | some (.runout _) | some (.divert _) | some (.engcmd _) =>
    s.onLi fun l => Link.startE { l with eTx := none }
  | some .halt | some (.bandout _) | none => s

def execEFrameSent (s : State) : Host.Outcome State Fault Refusal := event eFrameSent s

end Sys2Proof.Machine
end

