-- ==== Sys2Proof/Machine/Sensing.lean ====
section
/-!
DEFINITION. Machine/Sensing.lean: the Checkpoint Monitor (03_checkpoint_sensing_and_transport_count.md): the sample instants,
the transport pulses, the wall tick, the count advance, path still, and the cover events (R38 to R46, R56, R155, R156).
-/
namespace Sys2Proof.Machine

/-! ## Debounce (R35) -/

/-- The lines whose new level is accepted: different from the held level and equal to the last sample (R35). -/
def accepted {n : Nat} (held : BitVec n) (last : Option (BitVec n)) (new : BitVec n) : BitVec n :=
  match last with
  | none => 0
  | some l => (new ^^^ held) &&& ~~~(new ^^^ l)

/-- The edges of one sample instant, in line order, with their stamp: one group, or none when no level is accepted (R36). -/
def edgesOf (acc new : CheckpointLines) (now : Count) : List (List Edge) :=
  match (List.finRange 24).filter fun c => acc.getLsbD c.val with
  | [] => []
  | cs => [cs.map fun c => ⟨c, if new.getLsbD c.val then .lead else .trail, now⟩]

/-- All checkpoint lines are judged (R34 to R36). -/
def Monitor.sampleCheckpoints (new : CheckpointLines) (m : Monitor) : Monitor :=
  let acc := accepted m.ckHeld m.ckLast new
  { m with ckHeld := m.ckHeld ^^^ acc, ckLast := some new, edges := m.edges ++ edgesOf acc new m.tc }

/-- CHECKPOINT_SAMPLE_INSTANT (R34). -/
def checkpointSample (lines : CheckpointLines) (s : State) : State := s.onCkm (Monitor.sampleCheckpoints lines)

def execCheckpointSampleInstant (lines : CheckpointLines) (s : State) : Host.Outcome State Fault Refusal :=
  event (checkpointSample lines) s

/-- The cover events of one sample instant, in line order (R39). -/
def coverEventsOf (acc new : CoverLines) : List CoverEvent :=
  ((List.finRange 6).filter fun c => acc.getLsbD c.val).map fun c => ⟨c, new.getLsbD c.val⟩

/-- All cover lines are judged (R38, R39). -/
def Monitor.sampleCovers (new : CoverLines) (m : Monitor) : Monitor :=
  let acc := accepted m.cvHeld m.cvLast new
  { m with cvHeld := m.cvHeld ^^^ acc, cvLast := some new, coverEvents := m.coverEvents ++ coverEventsOf acc new }

/-! ## The wall tick (R38, R44, R46) -/

/-- The still detector at a wall tick (R44). -/
def Monitor.stillTick (interval : Nat) (m : Monitor) : Monitor :=
  match m.still with
  | .still => m
  | .watching =>
    let m := { m with stillCount := m.stillCount + 1 }
    if m.stillCount = interval then { m with still := .still, stillDue := m.stillDue + 1 } else m

/-- The cover sampler at a wall tick (R38). -/
def Monitor.coverTick (period : Nat) (lines : CoverLines) (m : Monitor) : Monitor :=
  let n := m.coverTicks + 1
  if period ≤ n then { m.sampleCovers lines with coverTicks := 0 } else { m with coverTicks := n }

/-- A running wall timer counts down; one that has expired stays so until its expiry is taken (R46, log 4). -/
def tickTimer (t : Option Nat) : Option Nat := t.map (· - 1)

/-- WALL_TICK (R46). -/
def wallTick (lines : CoverLines) (s : State) : State :=
  (((s.onCkm fun m => (m.stillTick s.pds.timing.stillMs).coverTick s.pds.timing.coverSampleMs lines).onDlu
    fun d => { d with bins := d.bins.map fun b => { b with timer := tickTimer b.timer } }).onRcc
    fun r => { r with coverTimer := tickTimer r.coverTimer })

def execWallTick (lines : CoverLines) (s : State) : Host.Outcome State Fault Refusal := event (wallTick lines) s

/-! ## Transport pulses and the Transport Count (R41, R42, R44, R61) -/

/-- TP_EDGE: the divider, TC and the still detector; an advance of TC is handed to the Sheet Tracker as a count advance that
carries the new value (R41, R42, R44). -/
def Monitor.tpEdge (tdiv : Nat) (m : Monitor) : Monitor :=
  let m := { m with stillCount := 0, still := .watching }
  if m.partialCount + 1 < 2 ^ tdiv then { m with partialCount := m.partialCount + 1 }
  else { m with partialCount := 0, tc := m.tc + 1, advances := m.advances ++ [m.tc + 1] }

def execTpEdge (s : State) : Host.Outcome State Fault Refusal :=
  event (fun s => s.onCkm (Monitor.tpEdge s.pds.timing.tdiv)) s

/-- COUNT_ADVANCE: the Sheet Tracker takes the earliest count advance and judges the deadlines in play at the value of TC that
it carries, record by record in feed order (R42, R61; log 4). -/
def countAdvance (s : State) : State :=
  match s.ckm.advances with
  | [] => s
  | t :: rest =>
    (s.onCkm fun m => { m with advances := rest }).onStk fun k =>
      { k with due := k.due ++ k.sheets.flatMap (expiriesOf s.pds k.path t) }

def execCountAdvance (s : State) : Host.Outcome State Fault Refusal := event countAdvance s

/-! ## Path still (R44, R55, R56) -/

/-- The halt completes: the sheets in the path are stranded, STOP-STRAND is raised where no JAM is open, and HALTED is
reported (R56). -/
def completeHalt (s : State) : State :=
  let stranded := s.stk.sheets.any Sheet.inTransport
  let s := watched (State.onStk fun k => { k with path := .halted, sheets := k.sheets.map Sheet.strand }) s
  haltedReport (if stranded && s.rcc.jam.isNone then raiseJam .stopStrand none none none s else s)

/-- PATH_STILL (R44, R55). -/
def pathStill (s : State) : State :=
  if 0 < s.ckm.stillDue then
    let s := s.onCkm fun m => { m with stillDue := m.stillDue - 1 }
    if s.stk.path = .halting then completeHalt s else s
  else s

def execPathStill (s : State) : Host.Outcome State Fault Refusal := event pathStill s

/-! ## Covers (R39, R40, R69, R149, R155, R156) -/

/-- The oldest event of a cover not yet taken. -/
def nextCoverEvent (s : State) (c : Cover) : Option CoverEvent := s.ckm.coverEvents.find? (·.cover = c)

/-- The oldest event of a cover is taken. -/
def popCoverEvent (c : Cover) (s : State) : State :=
  s.onCkm fun m => { m with coverEvents := m.coverEvents.eraseP fun e => decide (e.cover = c) }

/-- The Sheet Tracker takes a cover open event (R69). -/
def strandOpen (s : State) : State :=
  if s.stk.sheets.any Sheet.inTransport then raiseJam .stopStrand none none none s else s

/-- COVER_OPEN: both blocks take the event, in the order the command gives (R39, R155; log 7). -/
def coverOpen (c : Cover) (trackerFirst : Bool) (s : State) : State :=
  if nextCoverEvent s c = some ⟨c, true⟩ then
    let s := popCoverEvent c s
    if trackerFirst then raiseInterlock c (strandOpen s) else strandOpen (raiseInterlock c s)
  else s

def execCoverOpen (c : Cover) (trackerFirst : Bool) (s : State) : Host.Outcome State Fault Refusal :=
  event (coverOpen c trackerFirst) s

/-- An INTERLOCK in OPEN takes a cover shut event (R155). -/
def takeShut (s : State) : State :=
  if s.rcc.activeIn .interlock .opened = true ∧ s.ckm.cvHeld = 0 then
    (setPhase .interlock .shutWait s).onRcc fun r => { r with coverTimer := some s.pds.timing.coverSettleMs }
  else s

/-- COVER_SHUT (R39, R155). -/
def coverShut (c : Cover) (s : State) : State :=
  if nextCoverEvent s c = some ⟨c, false⟩ then takeShut (popCoverEvent c s) else s

def execCoverShut (c : Cover) (s : State) : Host.Outcome State Fault Refusal := event (coverShut c) s

/-- COVER_SETTLE_EXPIRY: the INTERLOCK closes (R156). -/
def coverSettleExpiry (s : State) : State :=
  if s.rcc.coverTimer = some 0 ∧ s.rcc.activeIn .interlock .shutWait = true then close .interlock s else s

def execCoverSettleExpiry (s : State) : Host.Outcome State Fault Refusal := event coverSettleExpiry s

end Sys2Proof.Machine
end

