-- ==== Sys2Proof/Machine/Tracking.lean ====
section
/-!
DEFINITION. Machine/Tracking.lean: the Sheet Tracker's events (04_sheet_tracking.md) and what the Delivery Unit does at an
exit and at its timer (05_bin_delivery_settling_and_sets.md): LEAD_EDGE, TRAIL_EDGE, the three deadline expiries,
SETTLE_TIMER_EXPIRY.
-/
namespace Sys2Proof.Machine

/-! ## Taking an edge (R36, R37, R57) -/

/-- A checkpoint's edge among those of the earliest sample instant not yet taken: edges are taken in the order they were
accepted, those of one instant in any order (R36). -/
def nextEdge (s : State) (c : Checkpoint) : Option Edge :=
  match s.ckm.edges with
  | [] => none
  | now :: _ => now.find? (·.ck = c)

/-- A checkpoint's edge of the earliest instant is taken; with the last of them the instant goes. -/
def Monitor.popEdge (c : Checkpoint) (m : Monitor) : Monitor :=
  match m.edges with
  | [] => m
  | now :: later =>
    match now.eraseP fun e => decide (e.ck = c) with
    | [] => { m with edges := later }
    | rest => { m with edges := rest :: later }

/-- An edge is taken, and sets the Occupancy level (R37). -/
def popEdge (c : Checkpoint) (covered : Bool) (s : State) : State :=
  (s.onCkm (Monitor.popEdge c)).onStk fun k => { k with levels := setLine k.levels c covered }

/-- Faults are raised in MOVING and RUNNING_OUT (R57). -/
def PathState.raisesFaults : PathState → Bool
  | .moving | .runningOut => true
  | .halting | .halted => false

/-! ## Lead edges (R59, R60) -/

/-- A candidate may take a lead edge of this stamp (R59 step 3). -/
def mayTake (s : State) (stamp : Count) (r : Sheet) : Bool :=
  match r.state, r.next with
  | .runout, _ => true
  | _, .step i => reached r.feedStamp stamp (((s.routeOf r).steps[i]?.map (·.earliest)).getD 0)
  | _, _ => false

/-- The next step after a match (R59, R72). -/
def afterMatch (rt : Route) (r : Sheet) : NextStep :=
  match r.next with
  | .step i =>
    if r.state = .runout ∧ r.disposition = some .purge then purgeCourse rt (.step (i + 1)) else .step (i + 1)
  | .purgeExit | .purgeDone => .purgeDone

/-- The record after its match (R59 step 5). -/
def Sheet.matched (rt : Route) (c : Checkpoint) (stamp : Count) (r : Sheet) : Sheet :=
  { r with
    occupied := r.occupied ++ [⟨c, r.next, stamp, stamp⟩]
    next := afterMatch rt r
    state := if r.state = .admitted then .moving else r.state
    runoutStamp := if r.state = .runout then some stamp else r.runoutStamp }

/-- The chosen sheet takes the edge, or its list is full (R59 steps 4 and 5, R60). -/
def matchSheet (faults : Bool) (c : Checkpoint) (stamp : Count) (r : Sheet) (s : State) : State :=
  if Config.occupiedMax ≤ r.occupied.length then
    if faults then raiseAt .stuck ((r.occupied.head?.map (·.ck)).getD c) (some r.tag) s else s
  else
    let s' := updSheet r.tag (Sheet.matched (s.routeOf r) c stamp) s
    if r.state = .admitted then clearInterlock r.tag s' else s'

/-- A lead edge in a moving state (R59, R60). -/
def matchLead (faults : Bool) (c : Checkpoint) (stamp : Count) (s : State) : State :=
  match s.occupant c with
  | some r => if faults then raiseAt .phantom c (some r.tag) s else s
  | none =>
    match s.stk.sheets.filter fun r => decide (s.expected r = some c) with
    | [] => if faults then raiseAt .phantom c none s else s
    | oldest :: rest =>
      match (oldest :: rest).find? (mayTake s stamp) with
      | some r => matchSheet faults c stamp r s
      | none => if faults then raiseAt .early c (some oldest.tag) s else s

/-- LEAD_EDGE (R37, R57, R59, R60). -/
def leadEdge (c : Checkpoint) (s : State) : State :=
  match nextEdge s c with
  | some e =>
    if e.dir = .lead then
      let s := popEdge c true s
      if s.stk.path = .halted then s else matchLead s.stk.path.raisesFaults c e.stamp s
    else s
  | none => s

def execLeadEdge (c : Checkpoint) (s : State) : Host.Outcome State Fault Refusal := event (leadEdge c) s

/-! ## Trail edges and exits (R64 to R66, R78, R79, R82, R178) -/

/-- The compile bin's stage B sheet fails the join test: it is marked suspect and JAM COMPILE is raised (R82). -/
def failJoin (b : Bin) (x : Sheet) (s : State) : State :=
  raiseJam .compile none (some x.tag) (some (.bin b)) (markSuspect x.tag s)

/-- The exit check (R78). -/
def exitPasses (s : State) (b : Bin) (q : Seq) : Bool := !s.frozen b && decide (s.highMark b < q)

/-- A sheet is handed to the Delivery Unit: join test, exit check, advance (R78, R79, R82). -/
def handOver (c : Checkpoint) (r : Sheet) (s : State) : State :=
  let b := s.binOf r
  let s := match joinFailure b s with
    | some x => failJoin b x s
    | none => s
  if exitPasses s b r.seq then advanceEjection b r.tag s else raiseJam .sequence (some c) (some r.tag) none s

/-- An out-of-order sheet ends REMOVED at its exit and is asked for (R65, R178). -/
def removeAtExit (r : Sheet) (s : State) : State :=
  post (.removeRequest .outOfOrder (s.binOf r) [(r.tag, r.seq)] none) (endSheet r.tag .removed s)

/-- Any entries left in a sheet's occupied list leave it (R65, R66). -/
def clearOccupied (t : Tag) (s : State) : State := updSheet t (fun r => { r with occupied := [] }) s

/-- A sheet's trail is taken at its exit step (R65). -/
def exitSheet (c : Checkpoint) (r : Sheet) (s : State) : State :=
  let s := clearOccupied r.tag s
  if sidesComplete (s.routeOf r) r = false then raiseAt .callFault c (some r.tag) s
  else if r.outOfOrder then checkRunoutComplete (removeAtExit r s)
  else checkRunoutComplete (handOver c r s)

/-- A RUNOUT sheet's trail is taken at PURGE EXIT (R66). -/
def purgeSheet (r : Sheet) (s : State) : State :=
  checkRunoutComplete (endSheet r.tag .purged (clearOccupied r.tag s))

/-- Whether a step of a route is its exit step. -/
def Route.isExitStep (rt : Route) : NextStep → Bool
  | .step i => (rt.steps[i]?.map (·.isExit)).getD false
  | .purgeExit | .purgeDone => false

/-- The record after its trail at a checkpoint (R64). -/
def Sheet.trail (c : Checkpoint) (stamp : Count) (r : Sheet) : Sheet :=
  { r with
    occupied := r.occupied.filter fun e => decide (e.ck ≠ c)
    runoutStamp := if r.state = .runout then some stamp else r.runoutStamp }

/-- The occupant's entry for a checkpoint is released (R64). -/
def releaseEntry (c : Checkpoint) (stamp : Count) (r : Sheet) (s : State) : State :=
  let step : Option NextStep := (r.occupied.find? (·.ck = c)).map (·.step)
  let s := updSheet r.tag (Sheet.trail c stamp) s
  match step with
  | some .purgeExit => purgeSheet r s
  | some st => if (s.routeOf r).isExitStep st then exitSheet c r s else s
  | none => s

/-- A trail edge in a moving state (R64). -/
def takeTrail (faults : Bool) (c : Checkpoint) (stamp : Count) (s : State) : State :=
  match s.occupant c with
  | some r => releaseEntry c stamp r s
  | none => if faults then raiseAt .trailFault c none s else s

/-- TRAIL_EDGE (R37, R57, R64). -/
def trailEdge (c : Checkpoint) (s : State) : State :=
  match nextEdge s c with
  | some e =>
    if e.dir = .trail then
      let s := popEdge c false s
      if s.stk.path = .halted then s else takeTrail s.stk.path.raisesFaults c e.stamp s
    else s
  | none => s

def execTrailEdge (c : Checkpoint) (s : State) : Host.Outcome State Fault Refusal := event (trailEdge c) s

/-! ## Deadlines (R61 to R63, R73) -/

def popDue (s : State) : State := s.onStk fun k => { k with due := k.due.tail }

/-- The checkpoint of a step of a sheet's route. -/
def stepCk (rt : Route) (i : Nat) : Checkpoint := (rt.steps[i]?.map (·.ck)).getD 0

/-- A sheet is misfed: the record ends MISFED, then the occurrence is raised (R62, R149). Both stand in the one command, so the
retry test comes before any admission of the entry, which R157 leaves open (log 33). -/
def misfeed (r : Sheet) (s : State) : State :=
  let rt := s.routeOf r
  raise ⟨.misfeed, ⟨.misfeed, some (stepCk rt 0), some r.tag, none⟩, some ⟨r.seq, r.tag, rt.tray, false⟩⟩
    (endSheet r.tag .misfed s)

/-- A lead window has expired for a record (R62); the record may have moved on since. -/
def leadExpired (t : Tag) (i : Nat) (s : State) : State :=
  match (s.sheet? t).filter fun r => decide ((r.state = .admitted ∨ r.state = .moving) ∧ r.next = .step i) with
  | some r => if i = 0 then misfeed r s else raiseAt .late (stepCk (s.routeOf r) i) (some t) s
  | none => s

/-- LEAD_WINDOW_EXPIRY: the first deadline not yet handled is a lead window (R61, R62). -/
def leadWindowExpiry (s : State) : State :=
  match s.stk.due with
  | .lead t i :: _ => leadExpired t i (popDue s)
  | _ => s

def execLeadWindowExpiry (s : State) : Host.Outcome State Fault Refusal := event leadWindowExpiry s

/-- A trail deadline has expired for an entry (R63); the entry may have left since. -/
def trailExpired (t : Tag) (e : Occupied) (s : State) : State :=
  match (s.sheet? t).filter fun r => r.occupied.contains e && decide (r.state = .moving ∨ r.state = .runout) with
  | some _ => raiseAt .stuck e.ck (some t) s
  | none => s

/-- TRAIL_DEADLINE_EXPIRY (R61, R63). -/
def trailDeadlineExpiry (s : State) : State :=
  match s.stk.due with
  | .trail t e :: _ => trailExpired t e (popDue s)
  | _ => s

def execTrailDeadlineExpiry (s : State) : Host.Outcome State Fault Refusal := event trailDeadlineExpiry s

/-- A run-out lead deadline has expired: the sheet is absent (R73, R175); it may have moved on since. -/
def runoutExpired (t : Tag) (stamp : Count) (s : State) : State :=
  match (s.sheet? t).filter fun r => decide (r.state = .runout ∧ r.runoutStamp = some stamp) with
  | some r => checkRunoutComplete (absenceReport r (s.binOf r) (cancelling s r.job) (endSheet t .removed s))
  | none => s

/-- RUNOUT_DEADLINE_EXPIRY (R61, R73). -/
def runoutDeadlineExpiry (s : State) : State :=
  match s.stk.due with
  | .runout t stamp :: _ => runoutExpired t stamp (popDue s)
  | _ => s

def execRunoutDeadlineExpiry (s : State) : Host.Outcome State Fault Refusal := event runoutDeadlineExpiry s

/-! ## The settle timer (R80, R82) -/

/-- SETTLE_TIMER_EXPIRY: an advance on expiry, or a failed join test (R80, R82). -/
def settleTimerExpiry (b : Bin) (s : State) : State :=
  if s.dlu.bins[b].timer = some 0 ∧ s.frozen b = false then
    match joinFailure b s with
    | some x => failJoin b x s
    | none => advanceExpiry b s
  else s

def execSettleTimerExpiry (b : Bin) (s : State) : Host.Outcome State Fault Refusal := event (settleTimerExpiry b) s

end Sys2Proof.Machine
end

