-- ==== Sys2Proof/Machine/Orders.lean ====
section
/-!
DEFINITION. Machine/Orders.lean: orders and admission (08_order_admission_and_jobs.md, sections 8.1 to 8.3): ORDER,
ADMIT_GATE_HEAD.
-/
namespace Sys2Proof.Machine

/-! ## Judging an ORDER (R131, R132) -/

def OrderBody.frontKey (o : OrderBody) : PageKey := ⟨o.job, o.front⟩

/-- The back page key an order names, an IMPLIED one written out (section 8.1). -/
def OrderBody.backKey (o : OrderBody) : Option PageKey :=
  match o.back with
  | .none => none
  | .number n => some ⟨o.job, n⟩
  | .implied => some ⟨o.job, o.front + 1⟩

/-- The bin of the order's route is the compile bin. -/
def OrderBody.compiles (s : State) (o : OrderBody) : Bool := isCompile s (s.route o.route).bin

/-- Whether an item of R132 holds. -/
def orderItem (s : State) (o : OrderBody) : Nat → Bool
  | 1 => (s.route o.route).loaded
  | 2 => decide (50 ≤ o.media ∧ o.media ≤ 8000)
  | 3 => decide (o.back = .none) != (s.route o.route).duplex
  | 4 => !decide (o.back = .implied) || decide (o.front + 1 ≤ Config.pageMax)
  | 5 => !(s.route o.route).duplex || decide (o.backKey ≠ some o.frontKey)
  | 6 => o.setPresent == o.compiles s
  | 7 => !o.compiles s || decide (s.ogt.compileSet = none ∨ s.ogt.compileSet = some ⟨o.job, o.set⟩)
  | _ => !(o.frontKey :: o.backKey.toList).any (referenced s)

/-- The first item of R132 that does not hold. -/
def failingItem (s : State) (o : OrderBody) : Option Nat := [1, 2, 3, 4, 5, 6, 7, 8].find? fun n => !orderItem s o n

/-- The reason an order is refused, with the failing item for INVALID (R131). -/
def orderRefusal (s : State) (o : OrderBody) : Option (OrderRefusal × Option Nat) :=
  let j := s.ogt.jobs[o.job]
  if s.pds.mode = .setup then some (.mode, none)
  else if j.state ≠ .opened ∨ j.id ≠ o.jobId then some (.job, none)
  else match failingItem s o with
    | some n => some (.invalid, some n)
    | none =>
      if Config.orderPlaces ≤ s.ogt.orq.length ∨ Config.seqStop ≤ s.ogt.seqCounter then some (.full, none) else none

/-- The order snapshot of an accepted order (R130). -/
def OrderBody.snapshot (s : State) (o : OrderBody) : Snapshot where
  route := o.route
  media := o.media
  front := o.frontKey
  back := if (s.route o.route).duplex then o.backKey else none
  set := if o.compiles s then some (o.set, o.setEnd) else none

/-- An order is accepted (R133). -/
def acceptOrder (o : OrderBody) (s : State) : State :=
  let q := s.ogt.seqCounter
  let n := o.snapshot s
  let compiles := o.compiles s
  let s := s.onOgt fun g => { g with seqCounter := q + 1, orq := g.orq ++ [⟨q, o.job, n, false, none, 0⟩] }
  let s := onJob o.job (fun b => { b with orq := b.orq + 1 }) s
  let s := n.keys.foldl (fun s k => claimLine q k s) s
  if compiles then s.onOgt fun g => { g with compileSet := if o.setEnd then none else some ⟨o.job, o.set⟩ } else s

/-- An order is judged (R31, R131). -/
def judgeOrder (o : OrderBody) (s : State) : State :=
  match orderRefusal s o with
  | some (reason, item) => post (.orderRefused reason o.jobId o.frontKey item) s
  | none => acceptOrder o s

/-- ORDER: the Order Gate takes the ORDER at the head of the FIFO (R5, R131). -/
def order (s : State) : State :=
  match s.li.fifo with
  | [] => s
  | f :: rest =>
    if f.kind = kindOrder then judgeOrder (orderBody f.body) (s.onLi fun l => { l with fifo := rest }) else s

def execOrder (s : State) : Host.Outcome State Fault Refusal := event order s

/-! ## Admission (R136, R137) -/

/-- The conditions of R136 for the gate head. -/
def admits (s : State) (e : Entry) : Bool :=
  let rt := s.route e.snap.route
  decide (s.pds.mode = .running ∧ s.stk.path = .moving) && !s.rcc.holdsPath &&
    decide (s.stk.sheets.length < Config.sheetSlots) && s.ogt.interlock.isNone && s.li.feedPlace.isNone &&
    decide (s.ogt.trays[rt.tray].state = .ready) && !s.dlu.bins[rt.bin].full && e.snap.keys.all s.pgd.usable

/-- The FEED of an admitted sheet (R137). -/
def feedOf (s : State) (t : Tag) (e : Entry) : Feed :=
  let rt := s.route e.snap.route
  ⟨t, rt.tray, e.snap.route, e.snap.media, rt.duplex⟩

/-- The entry leaves its list, and the sequence passes to the record (R137 step 4). -/
def leaveList (e : Entry) (reissued : Bool) (s : State) : State :=
  if reissued then
    onJob e.job (fun b => { b with ril := b.ril - 1, stt := b.stt + 1 }) (s.onOgt fun g => { g with ril := g.ril.tail })
  else
    onJob e.job (fun b => { b with orq := b.orq - 1, stt := b.stt + 1 }) (s.onOgt fun g => { g with orq := g.orq.tail })

/-- The gate head is admitted (R51, R137). -/
def openAdmission (e : Entry) (slot : Fin 24) (s : State) : State :=
  let reissued := !s.ogt.ril.isEmpty
  let t := freeTag (s.stk.sheets.map (·.tag)) Config.sheetSlots s.ogt.tagCounter
  let s := s.onStk fun k => { k with sheets := k.sheets ++ [newSheet slot t e reissued s.ckm.tc] }
  let s := s.onLi (Link.placeFeed (feedOf s t e))
  leaveList e reissued
    (s.onOgt fun g => { g with tagCounter := t + 1, admitOrigin := e.origin, interlock := some t })

/-- ADMIT_GATE_HEAD: the gate head is admitted when all conditions hold (R136, R137). -/
def admitGateHead (s : State) : State :=
  match s.ogt.head, freeSlot s.stk.sheets with
  | some e, some slot => if admits s e then openAdmission e slot s else s
  | _, _ => s

def execAdmitGateHead (s : State) : Host.Outcome State Fault Refusal := event admitGateHead s

end Sys2Proof.Machine
end

