-- ==== Sys2Proof/Machine/Requests.lean ====
section
/-!
DEFINITION. Machine/Requests.lean: how a MGMT request is taken and answered (R6, R7), and the requests of the Link Interface,
the Sheet Tracker, the Delivery Unit, the Page Directory, the Order Gate and the Recovery Controller.
-/
namespace Sys2Proof.Machine

/-! ## Taking and answering (R5 to R7, R184) -/

/-- Put the answer to a request in the reply place (R7). -/
def reply (q : Request) (code : ReplyCode) (body : List Byte) (s : State) : State :=
  s.onLi (Link.answer ⟨q.tag, BitVec.ofNat 8 q.code, code, body⟩)

/-- The MGMT request at the head of the FIFO that the empty reply place lets the LI take (R6). -/
def requestAtHead (s : State) : Option (Request × List Frame) :=
  match s.li.fifo with
  | [] => none
  | f :: rest => if f.kind = kindMgmt ∧ s.li.reply = none then some (requestOf f.body, rest) else none

/-- Take the request at the head, if it is of the wanted kind: a wrong length is answered by the LI, else the owner acts
(R6). -/
def takeRequest (wanted : Request → Bool) (act : Request → State → State) (s : State) : State :=
  match requestAtHead s with
  | none => s
  | some (q, rest) =>
    if wanted q then
      let s := s.onLi fun l => { l with fifo := rest }
      if requestLengthOk q = some false then reply q .refusedInvalid [] s else act q s
    else s

/-- A command of one request code. -/
def onRequest (code : Nat) (act : Request → State → State) (s : State) : Host.Outcome State Fault Refusal :=
  event (takeRequest (fun q => decide (q.code = code)) act) s

/-- MGMT_UNKNOWN_REQUEST (R6, R7). -/
def execMgmtUnknownRequest (s : State) : Host.Outcome State Fault Refusal :=
  event (takeRequest (fun q => decide (requestLengthOk q = none)) fun q s => reply q .refusedUnknown [] s) s

/-- The body of a reply that names a field by its offset (R185). -/
def naming (offset : Nat) : List Byte := num1 offset

/-! ## READ STATUS, RESET PART (R14, R15) -/

def clearCounts (l : Link) : Link := { l with checkCount := 0, formatCount := 0, overrunCount := 0 }

def readStatus (q : Request) (s : State) : State :=
  (reply q .done (statusReply s) s).onLi fun l =>
    let l := { l with dropped := false }
    if optionAt q.body 3 then clearCounts l else l

def execReadStatus (s : State) : Host.Outcome State Fault Refusal := onRequest codeReadStatus readStatus s

/-- The CRE at a soft reset (R129). -/
def Capture.softReset (c : Capture) : Capture :=
  { Capture.reset with
    write := if c.port = some .capture then c.write else none
    dram := c.dram
    lengths := c.lengths
    reader := if c.port = some .replay then .draining else .idle
    port := c.port }

/-- The CKM at a soft reset (R48). -/
def Monitor.softReset (m : Monitor) : Monitor :=
  { m with partialCount := 0, tc := 0, advances := [], still := .watching, stillCount := 0, stillDue := 0 }

/-- The trays at a soft reset (R141). -/
def TrayFlags.softReset (t : TrayFlags) : TrayFlags := { t with held := false, supplyReported := false }

/-- Every block takes its soft-reset values (R15 and the reset tables of the chapters). -/
def softReset (s : State) : State where
  pending := s.pending
  porst := s.porst
  li := { Link.reset with uTx := s.li.uTx, eTx := s.li.eTx }
  pds := { s.pds with mode := .setup }
  ckm := s.ckm.softReset
  stk := { Tracker.reset with levels := s.stk.levels }
  dlu := Delivery.reset
  pgd := { Directory.reset with keepPath := s.pgd.keepPath, keepSet := s.pgd.keepSet }
  cre := s.cre.softReset
  ogt := { Gate.reset with trays := s.ogt.trays.map TrayFlags.softReset }
  rcc := Recovery.reset

/-- RESET PART (R15). -/
def resetPart (q : Request) (s : State) : State := reply q .done [] ((softReset s).onLi Link.placeHalt)

def execResetPart (s : State) : Host.Outcome State Fault Refusal := onRequest codeResetPart resetPart s

/-! ## READ SHEETS, READ BIN (R76, R93) -/

def readSheets (q : Request) (s : State) : State := reply q .done (sheetsReply s) s

def execReadSheets (s : State) : Host.Outcome State Fault Refusal := onRequest codeReadSheets readSheets s

def readBin (q : Request) (s : State) : State :=
  match index? 6 (byteAt q.body 3) with
  | some b => reply q .done (binReply s b) s
  | none => reply q .refusedInvalid [] s

def execReadBin (s : State) : Host.Outcome State Fault Refusal := onRequest codeReadBin readBin s

/-! ## Page Directory (R97, R110 to R114) -/

def setRetentionMode (q : Request) (s : State) : State :=
  match yesNoAt q.body 3, yesNoAt q.body 4 with
  | some p, some e =>
    if !p && e then reply q .refusedInvalid [] s
    else reply q .done [] (s.onPgd fun d => { d with keepPath := p, keepSet := e })
  | _, _ => reply q .refusedInvalid [] s

def execSetRetentionMode (s : State) : Host.Outcome State Fault Refusal :=
  onRequest codeSetRetentionMode setRetentionMode s

/-- The page key of INQUIRE PAGE and DROP PAGE; none for a job slot above 7. -/
def keyAt (b : List Byte) : Option PageKey := (index? 8 (byteAt b 3)).map fun j => ⟨j, pageAt b 4⟩

def inquirePage (q : Request) (s : State) : State :=
  match keyAt q.body with
  | some k => reply q .done (pageReply s k) s
  | none => reply q .refusedInvalid [] s

def execInquirePage (s : State) : Host.Outcome State Fault Refusal := onRequest codeInquirePage inquirePage s

/-- DROP PAGE on a present page (R111 from item 3). -/
def dropLine (q : Request) (i : Nat) (l : Line) (s : State) : State :=
  let gone := s.onPgd (Directory.dropWay i)
  let done := num1 l.state.code
  if l.pin then reply q .refusedBusy [] s
  else match l.state with
    | .filling | .locked => reply q .refusedBusy [] s
    | .ready => if l.owner.isSome then reply q .refusedBusy [] s else reply q .done done gone
    | .released => reply q .done done gone
    | .setheld =>
      reply q .done done (match l.setTag with
        | some t => loseProtection t gone
        | none => gone)

def dropPage (q : Request) (s : State) : State :=
  match keyAt q.body with
  | none => reply q .refusedInvalid [] s
  | some k =>
    match s.pgd.lookup k with
    | none => reply q .refusedState [] s
    | some (i, l) => dropLine q i l s

def execDropPage (s : State) : Host.Outcome State Fault Refusal := onRequest codeDropPage dropPage s

/-- FLUSH (R112). -/
def flush (q : Request) (s : State) : State :=
  if s.pgd.walk.isSome then reply q .refusedBusy [] s
  else
    let sets := optionAt q.body 3
    let report := optionAt q.body 4
    reply q .done []
      (post (.flushBegin sets report) (s.onPgd fun d => { d with walk := some ⟨0, sets, report, 0, []⟩ }))

def execFlush (s : State) : Host.Outcome State Fault Refusal := onRequest codeFlush flush s

/-- FLUSH_WALK_STEP (R113, R114). -/
def flushWalkStep (s : State) : State :=
  match s.pgd.walk with
  | some w => walkStep w s
  | none => s

def execFlushWalkStep (s : State) : Host.Outcome State Fault Refusal := event flushWalkStep s

/-! ## Jobs and trays (R142, R144 to R146) -/

/-- A retention class by its code. -/
def classAt (b : List Byte) (i : Nat) : Option Retention :=
  if byteAt b i = 0 then some .none
  else if byteAt b i = 1 then some .path
  else if byteAt b i = 2 then some .full
  else none

/-- The entry that is not FREE and holds a job id (R144 to R146). -/
def jobSlotOf (g : Gate) (id : Nat) : Option JobSlot :=
  (List.finRange 8).find? fun j => decide (g.jobs[j].state ≠ .free ∧ g.jobs[j].id = id)

def freeJobs (g : Gate) : List JobSlot := (List.finRange 8).filter fun j => decide (g.jobs[j].state = .free)

/-- The number of present lines of a job slot (R144). -/
def presentLines (d : Directory) (j : JobSlot) : Nat := (d.lines.filter fun p => decide (p.2.key.job = j)).length

/-- An entry becomes OPEN (R144 step 5). -/
def openedJob (id : Nat) (c : Retention) : Job := { Job.reset with state := .opened, id := id, cls := c }

def openJob (q : Request) (s : State) : State :=
  let id := halfAt q.body 3
  match classAt q.body 5 with
  | none => reply q .refusedInvalid [] s
  | some c =>
    if (jobSlotOf s.ogt id).isSome then reply q .refusedInvalid [] s
    else if (freeJobs s.ogt).isEmpty then reply q .refusedFull [] s
    else match (freeJobs s.ogt).find? fun j => decide (presentLines s.pgd j = 0) with
      | some j => reply q .done (num1 j) (onJob j (fun _ => openedJob id c) s)
      | none =>
        reply q .refusedBusy (listed (fun j : JobSlot => num1 j ++ bytes2 (presentLines s.pgd j)) (freeJobs s.ogt)) s

def execOpenJob (s : State) : Host.Outcome State Fault Refusal := onRequest codeOpenJob openJob s

def closeJob (q : Request) (s : State) : State :=
  match jobSlotOf s.ogt (halfAt q.body 3) with
  | none => reply q .refusedInvalid [] s
  | some j =>
    if s.ogt.jobs[j].state = .opened then
      checkDone j (reply q .done [] (onJob j (fun b => { b with state := .closing }) s))
    else reply q .refusedState [] s

def execCloseJob (s : State) : Host.Outcome State Fault Refusal := onRequest codeCloseJob closeJob s

/-- The lines of the entries of a job are invalidated, in list order (R109, R146). -/
def invalidateEntries (l : List Entry) (s : State) : State := l.foldl (fun s e => invalidateOwner e.seq s) s

def ofJob (j : JobSlot) (l : List Entry) : List Entry := l.filter fun e => decide (e.job = j)

def notOfJob (j : JobSlot) (l : List Entry) : List Entry := l.filter fun e => decide (e.job ≠ j)

/-- Steps 4 and 5 of R146. -/
def cancelSet (j : JobSlot) (s : State) : State :=
  let s := match s.dlu.openSet with
    | some o => if o.job = j then loseProtection ⟨o.job, o.set⟩ s else s
    | none => s
  match s.ogt.compileSet with
  | some t => if t.job = j then s.onOgt fun g => { g with compileSet := none } else s
  | none => s

/-- A job is cancelled (R146). -/
def cancel (q : Request) (j : JobSlot) (s : State) : State :=
  let queued := ofJob j s.ogt.orq
  let listed := ofJob j s.ogt.ril
  let s := onJob j (fun b => { b with state := .cancelling }) s
  let s := invalidateEntries queued (s.onOgt fun g => { g with orq := notOfJob j g.orq })
  let s := onJob j (fun b => { b with orq := 0 }) s
  let s := invalidateEntries listed (s.onOgt fun g => { g with ril := notOfJob j g.ril })
  let s := onJob j (fun b => { b with ril := 0 }) s
  checkDone j (reply q .done (num1 queued.length ++ num1 listed.length) (cancelSet j s))

def cancelJob (q : Request) (s : State) : State :=
  match jobSlotOf s.ogt (halfAt q.body 3) with
  | none => reply q .refusedInvalid [] s
  | some j => if s.ogt.jobs[j].state = .cancelling then reply q .refusedState [] s else cancel q j s

def execCancelJob (s : State) : Host.Outcome State Fault Refusal := onRequest codeCancelJob cancelJob s

/-- The gate head's misfeed retry count becomes 0 (R142); only an entry of the Reissue List has one (R51). -/
def Gate.clearHeadRetries (g : Gate) : Gate :=
  match g.ril with
  | e :: r => { g with ril := { e with retries := 0 } :: r }
  | [] => g

def clearHeld (t : Tray) (s : State) : State :=
  let s := setTrayFlags t (fun f => { f with held := false }) s
  match s.ogt.head with
  | some e => if (s.route e.snap.route).tray = t then s.onOgt Gate.clearHeadRetries else s
  | none => s

def trayReady (q : Request) (s : State) : State :=
  match index? 6 (byteAt q.body 3) with
  | none => reply q .refusedInvalid [] s
  | some t =>
    if s.ogt.trays[t].held then reply q .done [] (trayReadyReport (clearHeld t s)) else reply q .refusedState [] s

def execTrayReady (s : State) : Host.Outcome State Fault Refusal := onRequest codeTrayReady trayReady s

def readQueues (q : Request) (s : State) : State := reply q .done (queuesReply s) s

def execReadQueues (s : State) : Host.Outcome State Fault Refusal := onRequest codeReadQueues readQueues s

/-! ## Recovery Controller (R161, R169) -/

def readIncidents (q : Request) (s : State) : State := reply q .done (incidentsReply s) s

def execReadIncidents (s : State) : Host.Outcome State Fault Refusal := onRequest codeReadIncidents readIncidents s

def blockingBytes (l : List (Checkpoint × Option Tag)) : List Byte := listed (fun x => num1 x.1 ++ opt half x.2) l

/-- CONFIRM CLEAR (R169). -/
def confirmClear (q : Request) (s : State) : State :=
  if s.rcc.activeIn .jam .clearance then
    if (blockingList s).isEmpty then enterDispose (reply q .done (num1 0 ++ blockingBytes []) s)
    else
      post (.clearanceStatus (blockingList s)) (reply q .done (num1 1 ++ blockingBytes (blockingList s)) s)
  else reply q .refusedState [] s

def execConfirmClear (s : State) : Host.Outcome State Fault Refusal := onRequest codeConfirmClear confirmClear s

end Sys2Proof.Machine
end

