-- ==== Sys2Proof/Machine/PathRequests.lean ====
section
/-!
DEFINITION. Machine/PathRequests.lean: the requests of the Path Description Store (02_path_description_tables.md): LOAD ROUTE,
LOAD BIN, LOAD TRAY, SET TIMING, START, STOP.
-/
namespace Sys2Proof.Machine

/-- A request that only SETUP takes (R26). -/
def inSetup (act : Request → State → State) (q : Request) (s : State) : State :=
  if s.pds.mode = .running then reply q .refusedMode [] s else act q s

/-! ## LOAD ROUTE (R18, R19) -/

/-- LOAD ROUTE with loaded = no. -/
def unloads (q : Request) : Bool := decide (q.code = codeLoadRoute ∧ 4 < q.body.length ∧ byteAt q.body 4 = 0)

/-- LOAD ROUTE with loaded not no. -/
def loads (q : Request) : Bool := decide (q.code = codeLoadRoute) && !unloads q

/-- The first field of a step record at `at_` that fails, by its offset in the record (R18). -/
def stepFault (b : List Byte) (at_ : Nat) : Option Nat :=
  if 24 ≤ byteAt b at_ then some 0
  else if 4096 ≤ halfAt b (at_ + 5) then some 5
  else if 4 ≤ byteAt b (at_ + 7) then some 7
  else if 3 ≤ byteAt b (at_ + 8) then some 8
  else if 4 ≤ byteAt b (at_ + 9) then some 9
  else none

/-- The first step field that fails, named by its offset and its step index (R18, R185). The step index follows the offset bare,
and a field of the header has none: the model's choice where a presence byte before the step index could be read (log 16). -/
def stepsFault (b : List Byte) (count : Nat) : Option (List Byte) :=
  (List.range' 0 count).findSome? fun i =>
    (stepFault b (9 + 10 * i)).map fun k => naming (9 + 10 * i + k) ++ num1 i

/-- The first field of a LOAD ROUTE that fails, in the order of R18, as the reply names it (R185). -/
def routeFault (b : List Byte) : Option (List Byte) :=
  if 16 ≤ byteAt b 3 then some (naming 3)
  else if (yesNoAt b 4).isNone then some (naming 4)
  else if 6 ≤ byteAt b 5 then some (naming 5)
  else if 6 ≤ byteAt b 6 then some (naming 6)
  else if (yesNoAt b 7).isNone then some (naming 7)
  else if byteAt b 8 < 2 ∨ 12 < byteAt b 8 then some (naming 8)
  else stepsFault b (byteAt b 8)

def zoneOf (n : Nat) : Zone :=
  if n = 0 then .blank else if n = 1 then .imaged else if n = 2 then .finished else .finisher

def sideMarkOf (n : Nat) : SideMark := if n = 0 then .none else if n = 1 then .front else .back

/-- A step record (section 12.4). -/
def stepAt (b : List Byte) (at_ : Nat) : RouteStep where
  ck := ⟨byteAt b at_ % 24, Nat.mod_lt _ (by decide)⟩
  earliest := halfAt b (at_ + 1)
  latest := halfAt b (at_ + 3)
  tolerance := halfAt b (at_ + 5)
  zone := zoneOf (byteAt b (at_ + 7))
  mark := sideMarkOf (byteAt b (at_ + 8))
  divertLast := byteAt b (at_ + 9) % 2 = 1
  isExit := byteAt b (at_ + 9) / 2 % 2 = 1

/-- An index from a byte checked to be below `n`. -/
def indexAt (n : Nat) (h : 0 < n) (b : List Byte) (i : Nat) : Fin n := ⟨byteAt b i % n, Nat.mod_lt _ h⟩

/-- The route a LOAD ROUTE body holds. -/
def routeAt (b : List Byte) : Route where
  loaded := true
  tray := indexAt 6 (by decide) b 5
  bin := indexAt 6 (by decide) b 6
  duplex := byteAt b 7 = 1
  steps := (List.range' 0 (byteAt b 8)).map fun i => stepAt b (9 + 10 * i)

def setRoute (n : RouteNo) (f : Route → Route) (s : State) : State :=
  s.onPds fun p => { p with routes := upd p.routes n f }

/-- LOAD ROUTE with loaded = yes in SETUP (R18). -/
def loadRoute (q : Request) (s : State) : State :=
  match routeFault q.body with
  | some field => reply q .refusedInvalid field s
  | none => reply q .done [] (setRoute (indexAt 16 (by decide) q.body 3) (fun _ => routeAt q.body) s)

def execLoadRoute (s : State) : Host.Outcome State Fault Refusal := event (takeRequest loads (inSetup loadRoute)) s

/-- LOAD ROUTE with loaded = no in SETUP (R19). -/
def unloadRoute (q : Request) (s : State) : State :=
  if 16 ≤ byteAt q.body 3 then reply q .refusedInvalid (naming 3) s
  else if byteAt q.body 8 ≠ 0 then reply q .refusedInvalid (naming 8) s
  else reply q .done []
    (setRoute (indexAt 16 (by decide) q.body 3) (fun r => { r with loaded := false, steps := [] }) s)

def execUnloadRoute (s : State) : Host.Outcome State Fault Refusal :=
  event (takeRequest unloads (inSetup unloadRoute)) s

/-! ## LOAD BIN, LOAD TRAY (R21, R22) -/

/-- Another bin is configured with kind COMPILE (R21). -/
def otherCompile (s : State) (n : Fin 7) : Bool :=
  (List.finRange 7).any fun b => decide (b ≠ n ∧ s.pds.bins[b].configured = true ∧ s.pds.bins[b].kind = .compile)

/-- The offset of the field for which a LOAD BIN of an existing bin fails (R21). -/
def binFieldFault (s : State) (n : Fin 7) (b : List Byte) : Option Nat :=
  if (yesNoAt b 4).isNone then some 4
  else if byteAt b 4 = 0 then none
  else if 2 ≤ byteAt b 5 then some 5
  else if n = 6 ∧ byteAt b 5 = 1 then some 5
  else if byteAt b 5 = 1 ∧ otherCompile s n = true then some 5
  else if n = 6 ∧ 24 ≤ byteAt b 6 then some 6
  else none

/-- The Bin Table entry is written (R21). -/
def writeBin (n : Fin 7) (b : List Byte) (s : State) : State :=
  s.onPds fun p =>
    if byteAt b 4 = 0 then { p with bins := upd p.bins n fun _ => ⟨false, .plain⟩ }
    else
      { p with
        bins := upd p.bins n fun _ => ⟨true, if byteAt b 5 = 1 then .compile else .plain⟩
        purgeExit := if n = 6 then indexAt 24 (by decide) b 6 else p.purgeExit }

def loadBin (q : Request) (s : State) : State :=
  match index? 7 (byteAt q.body 3) with
  | none => reply q .refusedInvalid (naming 3) s
  | some n =>
    match binFieldFault s n q.body with
    | some field => reply q .refusedInvalid (naming field) s
    | none => reply q .done [] (writeBin n q.body s)

def execLoadBin (s : State) : Host.Outcome State Fault Refusal := onRequest codeLoadBin (inSetup loadBin) s

def loadTray (q : Request) (s : State) : State :=
  match index? 6 (byteAt q.body 3), yesNoAt q.body 4 with
  | some t, some v => reply q .done [] (s.onPds fun p => { p with trays := upd p.trays t fun _ => v })
  | _, _ => reply q .refusedInvalid [] s

def execLoadTray (s : State) : Host.Outcome State Fault Refusal := onRequest codeLoadTray (inSetup loadTray) s

/-! ## SET TIMING (R24, R25) -/

/-- The eleven values of a SET TIMING body. -/
def timingAt (b : List Byte) : Timing where
  tdiv := byteAt b 3
  ckSampleUs := halfAt b 4
  coverSampleMs := byteAt b 6
  stillMs := byteAt b 7
  settleMs := halfAt b 8
  coverSettleMs := halfAt b 10
  runoutLimit := halfAt b 12
  misfeedLimit := byteAt b 14
  replayHold := byteAt b 15
  captureHold := byteAt b 16
  setProtection := byteAt b 17

/-- The ranges of section 2.3, in table order. -/
def Timing.checks (t : Timing) : List Bool :=
  [decide (t.tdiv ≤ 4), decide (50 ≤ t.ckSampleUs ∧ t.ckSampleUs ≤ 1000),
   decide (1 ≤ t.coverSampleMs ∧ t.coverSampleMs ≤ 20), decide (5 ≤ t.stillMs ∧ t.stillMs ≤ 255),
   decide (50 ≤ t.settleMs ∧ t.settleMs ≤ 2000), decide (100 ≤ t.coverSettleMs ∧ t.coverSettleMs ≤ 5000),
   decide (1000 ≤ t.runoutLimit ∧ t.runoutLimit ≤ 65535), decide (t.misfeedLimit ≤ 3),
   decide (1 ≤ t.replayHold ∧ t.replayHold ≤ 8), decide (1 ≤ t.captureHold ∧ t.captureHold ≤ 8),
   decide (1 ≤ t.setProtection ∧ t.setProtection ≤ 96)]

/-- The position, from 1, of the first value out of range. -/
def Timing.fault (t : Timing) : Option Nat := (t.checks.findIdx? fun ok => !ok).map (· + 1)

/-- The still detector compares its count with a new interval at once (R25, R44). -/
def Monitor.newInterval (interval : Nat) (m : Monitor) : Monitor :=
  if m.still = .watching ∧ interval ≤ m.stillCount then { m with still := .still, stillDue := m.stillDue + 1 } else m

/-- New values reach the mechanisms that run in SETUP (R25). -/
def applyTiming (t : Timing) (s : State) : State :=
  let changed := decide (t.tdiv ≠ s.pds.timing.tdiv)
  (s.onPds fun p => { p with timing := t }).onCkm fun m =>
    ({ m with partialCount := if changed then 0 else m.partialCount, coverTicks := 0 } : Monitor).newInterval t.stillMs

/-- SET TIMING in SETUP (R24); equal values change nothing (log 19). -/
def setTiming (q : Request) (s : State) : State :=
  let t := timingAt q.body
  match t.fault with
  | some n => reply q .refusedInvalid (num1 n) s
  | none => reply q .done [] (if t = s.pds.timing then s else applyTiming t s)

def execSetTiming (s : State) : Host.Outcome State Fault Refusal := onRequest codeSetTiming (inSetup setTiming) s

/-! ## START (R27 to R29) -/

def Route.lastStep (r : Route) : Nat := r.steps.length - 1

/-- The step indices of a route at which a test holds. -/
def Route.indices (r : Route) (p : RouteStep → Bool) : List Nat :=
  (List.range' 0 r.steps.length).filter fun i => (r.steps[i]?.map p).getD false

/-- The index of the last side-marked step (R28 item 8). -/
def Route.lastMarked (r : Route) : Nat :=
  ((r.indices fun st => decide (st.mark = if r.duplex then .back else .front)).head?).getD 0

/-- Item 8: the side marks. -/
def Route.marksOk (r : Route) : Bool :=
  match r.duplex, r.indices (·.mark = .front), r.indices (·.mark = .back) with
  | false, [_], [] => true
  | true, [f], [b] => decide (f < b)
  | _, _, _ => false

/-- Item 11 fails at a step whose lead earliest is smaller than that of the step before it. -/
def Route.orderFaults (r : Route) : List Nat :=
  (List.range' 1 r.lastStep).filter fun i =>
    match r.steps[i - 1]?, r.steps[i]? with
    | some a, some b => decide (b.earliest < a.earliest)
    | _, _ => false

/-- What a failing item of R28 names: the item, a route, a step. -/
structure StartFault where
  item : Nat
  route : Option RouteNo
  step : Option Nat
  deriving DecidableEq, Repr

/-- The first item 3 to 12 that a route fails: the item, and the step it concerns (R28). -/
def Route.startFault (p : PathDesc) (r : Route) : Option (Nat × Option Nat) :=
  let e := p.bins[r.bin.val]
  let lasts := r.indices (·.zone = .finisher)
  let early := (r.indices (·.zone = .finished)).filter fun i => decide (i ≤ r.lastMarked)
  let windows := r.indices fun st => decide (st.latest < st.earliest)
  if p.trays[r.tray] = false then some (3, none)
  else if e.configured = false then some (4, none)
  else if (r.indices (·.zone = .blank)).contains 0 = false then some (5, some 0)
  else if r.indices (·.isExit) ≠ [r.lastStep] then some (6, none)
  else if (r.indices (·.divertLast)).length ≠ 1 ∨ (r.indices (·.divertLast)).contains r.lastStep = true then some (7, none)
  else if r.marksOk = false then some (8, none)
  else if early ≠ [] then some (9, early.head?)
  else if windows ≠ [] then some (10, windows.head?)
  else if r.orderFaults ≠ [] then some (11, r.orderFaults.head?)
  else if e.configured = true ∧ e.kind = .compile ∧ lasts.contains r.lastStep = false then some (12, some r.lastStep)
  else none

/-- The exit checkpoints of a bin; entry 6 is BP (R20). -/
def exitsOf (p : PathDesc) (b : Fin 7) : List Checkpoint :=
  if b = 6 then [p.purgeExit]
  else (p.routes.toList.filter fun r => r.loaded && decide (r.bin.val = b.val)).flatMap Route.exits

/-- Item 13: a checkpoint is an exit checkpoint of two different bins. -/
def exitShared (p : PathDesc) : Bool :=
  (List.finRange 7).any fun a => (List.finRange 7).any fun b =>
    decide (a < b) && (exitsOf p a).any fun c => (exitsOf p b).contains c

/-- The first item of R28 that does not hold. -/
def startFault (p : PathDesc) : Option StartFault :=
  if p.routes.toList.all (fun r => !r.loaded) then some ⟨1, none, none⟩
  else if p.bins[6].configured = false then some ⟨2, none, none⟩
  else
    match (List.finRange 16).findSome? fun n =>
      if p.routes[n].loaded then (p.routes[n].startFault p).map fun x => (⟨x.1, some n, x.2⟩ : StartFault) else none with
    | some f => some f
    | none => if exitShared p then some ⟨13, none, none⟩ else none

def startFaultBytes (f : StartFault) : List Byte := num1 f.item ++ opt (fun n => num1 n.val) f.route ++ opt num1 f.step

def coveredList (l : CheckpointLines) : List Checkpoint := (List.finRange 24).filter fun c => l.getLsbD c.val

/-- The lowest-numbered cover whose held level is open (R40). -/
def lowestOpen (l : CoverLines) : Option Cover := (List.finRange 6).find? fun c => l.getLsbD c.val

/-- START is carried out (R29). -/
def carryOutStart (q : Request) (s : State) : State :=
  let s := reply q .done [] ((s.onPds fun p => { p with mode := .running }).onStk fun k => { k with path := .moving })
  match lowestOpen s.ckm.cvHeld with
  | some c => raiseInterlock c s
  | none => s

/-- START in SETUP (R27). -/
def start (q : Request) (s : State) : State :=
  match startFault s.pds with
  | some f => reply q .refusedInvalid (startFaultBytes f) s
  | none =>
    if s.ckm.ckHeld = 0 then carryOutStart q s
    else reply q .refusedState (listed (fun c : Checkpoint => num1 c) (coveredList s.ckm.ckHeld)) s

def execStart (s : State) : Host.Outcome State Fault Refusal := onRequest codeStart (inSetup start) s

/-! ## STOP (R30) -/

/-- The classes whose records are not CLEAR, for STOP's reply (R30); in level order, where R30 gives none (log 18). -/
def Recovery.openClasses (r : Recovery) : List IncClass := IncClass.all.filter fun c => (r.get c).isSome

def stopAllowed (s : State) : Bool :=
  s.stk.sheets.isEmpty && s.ogt.orq.isEmpty && s.ogt.ril.isEmpty && s.rcc.openClasses.isEmpty

def stopBusyBytes (s : State) : List Byte :=
  num1 s.stk.sheets.length ++ num1 s.ogt.orq.length ++ num1 s.ogt.ril.length ++
    listed (fun c : IncClass => num1 c.level) s.rcc.openClasses

def stop (q : Request) (s : State) : State :=
  if s.pds.mode = .setup then reply q .refusedMode [] s
  else if stopAllowed s then
    reply q .done []
      (((s.onPds fun p => { p with mode := .setup }).onStk fun k => { k with path := .halted }).onLi Link.placeHalt)
  else reply q .refusedBusy (stopBusyBytes s) s

def execStop (s : State) : Host.Outcome State Fault Refusal := onRequest codeStop stop s

end Sys2Proof.Machine
end

