-- ==== Sys2Proof/Machine/Dispatch.lean ====
section
/-!
DEFINITION. Machine/Dispatch.lean: which meaning each command has: one arm per constructor of Instr.
-/
namespace Sys2Proof.Machine

/-- The effect of a command on everything but the queue. -/
def exec (i : Instr) (s : State) : Host.Outcome State Fault Refusal :=
  match i with
  | .porstAssert => Sys2Proof.Machine.execPorstAssert s
  | .porstRelease => Sys2Proof.Machine.execPorstRelease s
  | .frameReceived port bytes => Sys2Proof.Machine.execFrameReceived port bytes s
  | .order => Sys2Proof.Machine.execOrder s
  | .band => Sys2Proof.Machine.execBand s
  | .engcmd => Sys2Proof.Machine.execEngcmd s
  | .mgmtUnknownRequest => Sys2Proof.Machine.execMgmtUnknownRequest s
  | .readStatus => Sys2Proof.Machine.execReadStatus s
  | .resetPart => Sys2Proof.Machine.execResetPart s
  | .loadRoute => Sys2Proof.Machine.execLoadRoute s
  | .unloadRoute => Sys2Proof.Machine.execUnloadRoute s
  | .loadBin => Sys2Proof.Machine.execLoadBin s
  | .loadTray => Sys2Proof.Machine.execLoadTray s
  | .setTiming => Sys2Proof.Machine.execSetTiming s
  | .start => Sys2Proof.Machine.execStart s
  | .stop => Sys2Proof.Machine.execStop s
  | .readSheets => Sys2Proof.Machine.execReadSheets s
  | .readBin => Sys2Proof.Machine.execReadBin s
  | .setRetentionMode => Sys2Proof.Machine.execSetRetentionMode s
  | .inquirePage => Sys2Proof.Machine.execInquirePage s
  | .dropPage => Sys2Proof.Machine.execDropPage s
  | .flush => Sys2Proof.Machine.execFlush s
  | .flushWalkStep => Sys2Proof.Machine.execFlushWalkStep s
  | .openJob => Sys2Proof.Machine.execOpenJob s
  | .closeJob => Sys2Proof.Machine.execCloseJob s
  | .cancelJob => Sys2Proof.Machine.execCancelJob s
  | .trayReady => Sys2Proof.Machine.execTrayReady s
  | .readQueues => Sys2Proof.Machine.execReadQueues s
  | .readIncidents => Sys2Proof.Machine.execReadIncidents s
  | .confirmClear => Sys2Proof.Machine.execConfirmClear s
  | .call tag side => Sys2Proof.Machine.execCall tag side s
  | .trayEmpty tray rest => Sys2Proof.Machine.execTrayEmpty tray rest s
  | .trayFilled tray rest => Sys2Proof.Machine.execTrayFilled tray rest s
  | .binFull bin rest => Sys2Proof.Machine.execBinFull bin rest s
  | .binCleared bin rest => Sys2Proof.Machine.execBinCleared bin rest s
  | .setEjected bin rest => Sys2Proof.Machine.execSetEjected bin rest s
  | .engineFault code => Sys2Proof.Machine.execEngineFault code s
  | .compileFault bin rest => Sys2Proof.Machine.execCompileFault bin rest s
  | .engstatUnread body => Sys2Proof.Machine.execEngstatUnread body s
  | .uFrameSent => Sys2Proof.Machine.execUFrameSent s
  | .eFrameSent => Sys2Proof.Machine.execEFrameSent s
  | .haltSent => Sys2Proof.Machine.execHaltSent s
  | .bandoutSent => Sys2Proof.Machine.execBandoutSent s
  | .bandoutGiven => Sys2Proof.Machine.execBandoutGiven s
  | .writeTransferEnd => Sys2Proof.Machine.execWriteTransferEnd s
  | .readTransferEnd => Sys2Proof.Machine.execReadTransferEnd s
  | .leadEdge ck => Sys2Proof.Machine.execLeadEdge ck s
  | .trailEdge ck => Sys2Proof.Machine.execTrailEdge ck s
  | .coverOpen cover trackerFirst => Sys2Proof.Machine.execCoverOpen cover trackerFirst s
  | .coverShut cover => Sys2Proof.Machine.execCoverShut cover s
  | .tpEdge => Sys2Proof.Machine.execTpEdge s
  | .countAdvance => Sys2Proof.Machine.execCountAdvance s
  | .leadWindowExpiry => Sys2Proof.Machine.execLeadWindowExpiry s
  | .trailDeadlineExpiry => Sys2Proof.Machine.execTrailDeadlineExpiry s
  | .runoutDeadlineExpiry => Sys2Proof.Machine.execRunoutDeadlineExpiry s
  | .pathStill => Sys2Proof.Machine.execPathStill s
  | .settleTimerExpiry bin => Sys2Proof.Machine.execSettleTimerExpiry bin s
  | .coverSettleExpiry => Sys2Proof.Machine.execCoverSettleExpiry s
  | .admitGateHead => Sys2Proof.Machine.execAdmitGateHead s
  | .wallTick lines => Sys2Proof.Machine.execWallTick lines s
  | .checkpointSampleInstant lines => Sys2Proof.Machine.execCheckpointSampleInstant lines s

end Sys2Proof.Machine
end

