-- ==== Sys2Proof/Machine/Step.lean ====
section
/-!
DEFINITION. Machine/Step.lean: one step of the part: it takes the command at the front of the queue and runs it; with an empty
queue it idles (log 1).
-/
namespace Sys2Proof.Machine

/-- One step. -/
def step (s : State) : Host.Outcome State Fault Refusal :=
  match s.pending with
  | [] => .next s
  | c :: rest => exec c { s with pending := rest }

/-- `s` with the command a word spells put in front of its queue; no word spells one, since no row gives bits. -/
def State.withFetchWord (s : State) (nbits w : Nat) : State :=
  match decodeTableWord nbits w with
  | some c => { s with pending := c :: s.pending }
  | none => s

end Sys2Proof.Machine
end

