-- ==== Sys2Proof/Safety.lean ====
section
/-!
DEFINITION. Safety.lean: the vocabulary of the claims: a request that waits to be taken, an answered request, the items an
order is judged by, displacement, an edge that waits, the bin order rule; and the invariants of the link, the retention DRAM,
the Band Pool, the Page Directory, the flush walk, the Sheet Tracking Table, the divider, the waiting edges and the Incident
Table.
-/
namespace Sys2Proof.Machine

/-! ## Requests -/

/-- The request `q` stands at the head of the input FIFO, ahead of `rest`, and the LI can take it (R6). -/
structure Requested (s : State) (q : Request) (rest : List Frame) : Prop where
  awake : s.porst = false
  place : s.li.reply = none
  head : ∃ f, s.li.fifo = f :: rest ∧ f.kind = kindMgmt ∧ q = requestOf f.body

/-- `s` with the head of the FIFO taken, `rest` left. -/
def State.taken (s : State) (rest : List Frame) : State := { s with li := { s.li with fifo := rest } }

/-- `s` with a reply to `q` placed in the reply place (R7). -/
def State.replied (s : State) (q : Request) (code : ReplyCode) (body : List Byte) : State :=
  { s with li := Link.answer ⟨q.tag, BitVec.ofNat 8 q.code, code, body⟩ s.li }

/-- `s` with the request taken from the FIFO and its reply placed (R5 to R7): nothing else differs. -/
def State.answered (s : State) (q : Request) (code : ReplyCode) (body : List Byte) (rest : List Frame) : State :=
  (s.taken rest).replied q code body

/-- The rows of the requests that have a code of their own, with that code and their body length (R184). -/
def requestRows : List (Instr × Nat × Nat) :=
  [(.readStatus, codeReadStatus, 4), (.resetPart, codeResetPart, 3), (.loadBin, codeLoadBin, 7),
   (.loadTray, codeLoadTray, 5), (.setTiming, codeSetTiming, 18), (.start, codeStart, 3), (.stop, codeStop, 3),
   (.readSheets, codeReadSheets, 3), (.readBin, codeReadBin, 4), (.setRetentionMode, codeSetRetentionMode, 5),
   (.inquirePage, codeInquirePage, 7)] ++
  [(.dropPage, codeDropPage, 7), (.flush, codeFlush, 5), (.openJob, codeOpenJob, 6), (.closeJob, codeCloseJob, 5),
   (.cancelJob, codeCancelJob, 5), (.trayReady, codeTrayReady, 4), (.readQueues, codeReadQueues, 3),
   (.readIncidents, codeReadIncidents, 3), (.confirmClear, codeConfirmClear, 3)]

/-- The rows that take a MGMT request. -/
def requestCommands : List Instr := [.mgmtUnknownRequest, .loadRoute, .unloadRoute] ++ requestRows.map (·.1)

/-! ## Orders, pages, edges -/

/-- The key `k` is referenced (R132). -/
def KeyInUse (s : State) (k : PageKey) : Prop :=
  (∃ e ∈ s.ogt.orq ++ s.ogt.ril, k ∈ e.snap.keys) ∨ (∃ r ∈ s.stk.sheets, k ∈ r.snap.keys) ∨
  (∃ o l p, s.dlu.openSet = some o ∧ o.guarded = some l ∧ p ∈ l ∧ k ∈ p.snap.keys) ∨
  s.pgd.stateOf k = some .locked ∨ s.pgd.stateOf k = some .setheld

/-- The items of R132, numbered from 0. -/
def OrderHolds (s : State) (o : OrderBody) (n : Fin 8) : Prop :=
  let rt := s.pds.routes[o.route]
  let compile := s.pds.bins[rt.bin.val] = ⟨true, .compile⟩
  match n with
  | 0 => rt.loaded = true
  | 1 => 50 ≤ o.media ∧ o.media ≤ 8000
  | 2 => rt.duplex = true ↔ o.back ≠ .none
  | 3 => o.back = .implied → o.front + 1 ≤ 16777215
  | 4 => rt.duplex = true → o.backKey ≠ some ⟨o.job, o.front⟩
  | 5 => o.setPresent = true ↔ compile
  | 6 => compile → s.ogt.compileSet = none ∨ s.ogt.compileSet = some ⟨o.job, o.set⟩
  | 7 => ∀ k ∈ PageKey.mk o.job o.front :: o.backKey.toList, ¬KeyInUse s k

/-- The page `k` is wanted (R101): the gate head references it, and it is not in a READY or LOCKED line. -/
def Wanted (s : State) (k : PageKey) : Prop :=
  (∃ e, s.ogt.head = some e ∧ k ∈ e.snap.keys) ∧ s.pgd.stateOf k ≠ some .ready ∧ s.pgd.stateOf k ≠ some .locked

/-- The line `l` is displaceable (R101): READY or LOCKED, not pinned, and without an owner, or owned by a sequence above the
gate head's that no sheet record holds. -/
def CanDisplace (s : State) (l : Line) : Prop :=
  (l.state = .ready ∨ l.state = .locked) ∧ l.pin = false ∧
    (l.owner = none ∨ ∃ q e, l.owner = some q ∧ s.ogt.head = some e ∧ e.seq < q ∧ ∀ r ∈ s.stk.sheets, r.seq ≠ q)

/-- `p` ranks first among the displaceable lines that satisfy `among` (R101): one without an owner, or the one of the greatest
owner; of equal rank, the one of the lowest set, then of the lowest way (way w of set n stands at 4 n + w). -/
def RanksFirst (s : State) (among : Nat × Line → Prop) (p : Nat × Line) : Prop :=
  p ∈ s.pgd.lines ∧ among p ∧ CanDisplace s p.2 ∧ ∀ q ∈ s.pgd.lines, among q → CanDisplace s q.2 →
    (p.2.owner = none ∨ ∃ a b, p.2.owner = some a ∧ q.2.owner = some b ∧ b ≤ a) ∧
    (q.2.owner = p.2.owner → p.1 ≤ q.1)

/-- `e` is checkpoint `c`'s edge among those of the earliest sample instant not yet taken (R36): `before` and `after` are the
other edges of that instant, `later` those of the instants after it. -/
structure EdgeWaits (s : State) (c : Checkpoint) (e : Edge) (before after : List Edge) (later : List (List Edge)) : Prop where
  awake : s.porst = false
  edges : s.ckm.edges = (before ++ e :: after) :: later
  first : ∀ x ∈ before, x.ck ≠ c
  ck : e.ck = c

/-- No edge of checkpoint `c` is among those of the earliest sample instant not yet taken. -/
def NoEdgeNow (s : State) (c : Checkpoint) : Prop := ∀ now later, s.ckm.edges = now :: later → ∀ x ∈ now, x.ck ≠ c

/-- `s` with that edge taken and the Occupancy level of its checkpoint set (R37). -/
def State.edgeTaken (s : State) (c : Checkpoint) (covered : Bool) (before after : List Edge) (later : List (List Edge)) :
    State :=
  { s with
    ckm := { s.ckm with edges := if before ++ after = [] then later else (before ++ after) :: later }
    stk := { s.stk with levels := setLine s.stk.levels c covered } }

/-- A candidate may take a lead edge of this stamp (R59 step 3, R43). -/
def MayTake (s : State) (stamp : Count) (r : Sheet) : Prop :=
  r.state = .runout ∨ ∃ i st, r.next = .step i ∧ (s.routeOf r).steps[i]? = some st ∧
    st.earliest ≤ (stamp - r.feedStamp).toNat ∧ (stamp - r.feedStamp).toNat < 2 ^ 31

/-- The record `r`, DELIVER for bin `b`, is blocked (R172); `named` are the tags named for exit removal so far. -/
def OrderBlocked (s : State) (b : Bin) (named : List Tag) (r : Sheet) : Prop :=
  (∃ e ∈ s.ogt.ril, e.seq < r.seq ∧ s.pds.routes[e.snap.route].bin = b) ∨
  (∃ x ∈ s.stk.sheets, x.state = .stranded ∧ s.pds.routes[x.snap.route].bin = b ∧ x.seq < r.seq ∧
    s.ogt.jobs[x.job].state ≠ .cancelling ∧ (x.disposition = some .purge ∨ x.tag ∈ named)) ∨
  (∃ i, s.rcc.jam = some i ∧ i.setPurge = true ∧ compileBin s = some b)

/-- The Path State raises faults (R57). -/
def RaisesFaults (s : State) : Prop := s.stk.path = .moving ∨ s.stk.path = .runningOut

/-! ## Invariants -/

/-- The link: no queue overfull, and no frame waits beside a free transmitter (R3, R9 to R12). -/
structure LinkOk (l : Link) : Prop where
  fifo : l.fifo.length ≤ Config.fifoPlaces
  notices : l.notices.length ≤ Config.noticePlaces
  upward : l.upward.length ≤ Config.statusPlaces
  uBusy : l.uTx = none → l.reply = none ∧ l.notices = [] ∧ l.upward = []
  eBusy : l.eTx = none → l.haltPlace = false ∧ l.divertQueue = [] ∧ l.runoutPlace = none ∧ l.bandoutPlace = none ∧
    l.feedPlace = none ∧ l.engcmdPlace = none

/-- The retention DRAM and the length records are in canonical form. -/
structure DramOk (c : Capture) : Prop where
  dram : Memory.wf c.dram
  lengths : Cells.Rising c.lengths

/-- Each of the 8192 blocks is on the free list or in the chain of exactly one line (R115). -/
structure PoolOk (d : Directory) : Prop where
  rising : Cells.Rising d.lines
  blocks : (d.free ++ d.lines.flatMap fun p => p.2.chain).Perm (List.range' 0 Config.blocks)

/-- Each page is held by at most one line, in the set of its page number (R94). -/
structure DirectoryOk (d : Directory) : Prop where
  rising : Cells.Rising d.lines
  sets : ∀ p ∈ d.lines, p.1 / Config.ways = setOf p.2.key
  keys : (d.lines.map fun p => p.2.key).Nodup

/-- An active flush walk has sets left to walk, and fewer than 16 keys in its report buffer (R113). -/
def WalkOk (d : Directory) : Prop := ∀ w, d.walk = some w → w.next < Config.sets ∧ w.buffer.length < Config.reportKeys

/-- No two records share a slot or a tag, no list holds more than three checkpoints, and each checkpoint has at most one
occupant (R49, R54). -/
structure TableOk (t : Tracker) : Prop where
  slots : (t.sheets.map (·.slot)).Nodup
  tags : (t.sheets.map (·.tag)).Nodup
  lists : ∀ r ∈ t.sheets, r.occupied.length ≤ Config.occupiedMax
  occupants : (t.sheets.flatMap fun r => r.occupied.map (·.ck)).Nodup

/-- Every sample instant that waits has an edge to be taken (R36). -/
def EdgesOk (m : Monitor) : Prop := ∀ g ∈ m.edges, g ≠ []

/-- The divider's partial count is in the range TDIV gives it (R41). -/
def DividerOk (s : State) : Prop := s.ckm.partialCount < 2 ^ s.pds.timing.tdiv

/-- The Incident Table and the Recovery Stack (R148, R152): at most one record ACTIVE, and one whenever a record is open; the
stack holds the PREEMPTED records, the most urgent on top, each less urgent than the ACTIVE one; a PENDING record is less
urgent than the ACTIVE one. -/
structure RecoveryOk (r : Recovery) : Prop where
  oneActive : ∀ a b, r.statusOf a = some .active → r.statusOf b = some .active → a = b
  someActive : ∀ c, (r.get c).isSome → ∃ a, r.statusOf a = some .active
  frames : ∀ c, c ∈ r.stack ↔ r.statusOf c = some .preempted
  order : r.stack.Pairwise fun a b => a.level < b.level
  below : ∀ a, r.statusOf a = some .active → ∀ c ∈ r.stack, a.level < c.level
  waiting : ∀ a c, r.statusOf a = some .active → r.statusOf c = some .pending → a.level < c.level

end Sys2Proof.Machine
end

