-- ==== Sys2Proof/Certificates/Slice0/Obligations.lean ====
section
/-!
DEFINITION. Certificates/Slice0/Obligations.lean: the statements for the provers. `watchGate s t` is the state `t` that an
event made from `s`, with the gate head judged when anything R135 names has changed; GateWatch says what it does.
-/
open Sys2Proof Sys2Proof.Machine

/-! ## The step, PORST, power-on -/

/-- Tier 1. A step runs the front command on the rest of the queue; an empty queue idles (the model's choice, log 1). -/
def Obligations.StepRunsFrontCommand : Prop :=
  (∀ (c : Instr) (rest : List Instr) (s : State), s.pending = c :: rest → step s = exec c { s with pending := rest }) ∧
  ∀ s : State, s.pending = [] → step s = .next s

/-- Tier 2. No command stops the part, and none but the step itself touches the queue (log 2). -/
def Obligations.EveryCommandAnswersNext : Prop :=
  ∀ (c : Instr) (s : State), ∃ t, exec c s = .next t ∧ t.pending = s.pending

/-- Tier 1. R16. PORST cuts off what is being sent and asserts U-HOLD; while it is asserted nothing else happens (log
8); its release gives the power-on values (those the spec leaves open by logs 10 and 11) and keeps only the queue of
commands; a release of a line that is not asserted changes nothing (log 2). -/
def Obligations.PorstLine : Prop :=
  ∀ s : State,
    (s.porst = false → exec .porstAssert s =
      .next { s with porst := true, li := { s.li with uTx := none, eTx := none } }) ∧
    (s.porst = true → s.uHold = true ∧
      exec .porstRelease s = .next { State.reset with pending := s.pending } ∧
      ∀ c : Instr, c ≠ .porstRelease → exec c s = .next s) ∧
    (s.porst = false → (s.uHold = true ↔ Config.fifoPlaces ≤ s.li.fifo.length) ∧ exec .porstRelease s = .next s)

/-- Tier 1. The values the spec gives for power-on (R16, R17, R20, R22, R23, R26, R47, R55, R77, R86, R116, R128, R130,
R133, R134, R139, R141, R143, R162). -/
def Obligations.PowerOnValues : Prop :=
  (let l := State.reset.li
   l.fifo = [] ∧ l.reply = none ∧ l.notices = [] ∧ l.upward = [] ∧ l.noticeCounter = 0 ∧ l.dropped = false ∧
   l.checkCount = 0 ∧ l.formatCount = 0 ∧ l.overrunCount = 0 ∧ l.haltPlace = false ∧ l.divertQueue = [] ∧
   l.runoutPlace = none ∧ l.bandoutPlace = none ∧ l.feedPlace = none ∧ l.engcmdPlace = none ∧ l.uTx = none ∧
   l.eTx = none) ∧
  (let p := State.reset.pds
   p.mode = .setup ∧ (∀ n : RouteNo, p.routes[n].loaded = false ∧ p.routes[n].steps = []) ∧
   (∀ b : Fin 7, p.bins[b] = ⟨false, .plain⟩) ∧ p.purgeExit = 0 ∧ (∀ t : Tray, p.trays[t] = false) ∧
   p.timing = ⟨2, 200, 5, 30, 400, 500, 8000, 2, 4, 2, 96⟩) ∧
  (let m := State.reset.ckm
   m.ckHeld = 0 ∧ m.ckLast = none ∧ m.cvHeld = 0 ∧ m.cvLast = none ∧ m.tc = 0 ∧ m.partialCount = 0 ∧
   m.still = .watching ∧ m.stillCount = 0 ∧ m.coverTicks = 0) ∧
  (let k := State.reset.stk
   k.sheets = [] ∧ k.levels = 0 ∧ k.path = .halted) ∧
  (let d := State.reset.dlu
   (∀ b : Bin, d.bins[b] = ⟨false, 0, none⟩) ∧ d.openSet = none) ∧
  (let g := State.reset.pgd
   g.lines = [] ∧ (∀ n : Fin 64, g.plru[n] = ⟨false, false, false⟩) ∧ g.keepPath = true ∧ g.keepSet = true ∧
   g.walk = none ∧ g.latch = none ∧ g.free = List.range' 0 8192) ∧
  (let c := State.reset.cre
   c.take = none ∧ c.write = none ∧ c.reader = .idle ∧ c.buffer = none ∧ c.pendingCall = none ∧ c.port = none ∧
   c.lastHolder = none ∧ c.captureWaiting = false ∧ c.replayWaiting = false ∧ c.run = 0) ∧
  (let g := State.reset.ogt
   g.orq = [] ∧ g.ril = [] ∧ g.seqCounter = 1 ∧ g.tagCounter = 0 ∧ g.compileSet = none ∧ g.interlock = none ∧
   (∀ t : Tray, g.trays[t] = ⟨false, false, false⟩) ∧
   ∀ j : JobSlot, g.jobs[j].state = .free ∧ g.jobs[j].orq = 0 ∧ g.jobs[j].ril = 0 ∧ g.jobs[j].stt = 0 ∧
     g.jobs[j].set = 0 ∧ g.jobs[j].delivered = 0 ∧ g.jobs[j].purged = 0 ∧ g.jobs[j].removed = 0) ∧
  (let r := State.reset.rcc
   r.interlock = none ∧ r.jam = none ∧ r.misfeed = none ∧ r.supply = none ∧ r.stack = [] ∧ r.coverTimer = none)

/-! ## The link -/

/-- Tier 2. R1, R2, R3, R182, R183. The judgement of a reception, and what it does: a frame judged CHECK or FORMAT is
counted and reported; a good U-port frame joins the FIFO, or is counted and reported OVERRUN when both places are full.
A reception that ends before its length field is complete is CHECK, with kind byte 00h when not even the kind byte came.
Nothing but the link changes. -/
def Obligations.FrameReceived : Prop :=
  (∀ (port : Port) (kind : Byte),
    judge port [] = .check 0 ∧
    (∀ rest, inbound port kind = true → rest.length < 2 → judge port (kind :: rest) = .check kind) ∧
    (∀ rest, inbound port kind = false → judge port (kind :: rest) = .format kind) ∧
    (∀ hi lo tail, inbound port kind = true → legalLength kind (hi.toNat * 256 + lo.toNat) = false →
      judge port (kind :: hi :: lo :: tail) = .format kind) ∧
    (∀ hi lo tail, inbound port kind = true → legalLength kind (hi.toNat * 256 + lo.toNat) = true →
      tail.length < hi.toNat * 256 + lo.toNat + 2 → judge port (kind :: hi :: lo :: tail) = .check kind) ∧
    (∀ body crc after, inbound port kind = true → body.length < 65536 → legalLength kind body.length = true →
      judge port (kind :: bytes2 body.length ++ body ++ half crc ++ after) =
        if crc = frameCrc kind body then
          if formatOk kind body then .good ⟨kind, body, crc⟩ else .format kind
        else .check kind)) ∧
  ∀ (s : State) (port : Port) (bytes : List Byte), s.porst = false →
    (∀ kind, judge port bytes = .check kind → exec (.frameReceived port bytes) s =
      .next { s with
        li := Link.post (.linkDiscard .check port kind (raise16 s.li.checkCount))
          { s.li with checkCount := raise16 s.li.checkCount } }) ∧
    (∀ kind, judge port bytes = .format kind → exec (.frameReceived port bytes) s =
      .next { s with
        li := Link.post (.linkDiscard .format port kind (raise16 s.li.formatCount))
          { s.li with formatCount := raise16 s.li.formatCount } }) ∧
    (∀ f, port = .u → judge port bytes = .good f → s.li.fifo.length < 2 → exec (.frameReceived port bytes) s =
      .next { s with li := { s.li with fifo := s.li.fifo ++ [f] } }) ∧
    (∀ f, port = .u → judge port bytes = .good f → 2 ≤ s.li.fifo.length → exec (.frameReceived port bytes) s =
      .next { s with
        li := Link.post (.linkDiscard .overrun .u f.kind (raise16 s.li.overrunCount))
          { s.li with overrunCount := raise16 s.li.overrunCount } })

/-- Tier 2. R8, R9. A good E-port frame is handled at its arrival as the row of its kind says (the two are one event:
log 23). -/
def Obligations.EPortFrameActsAsItsRow : Prop :=
  ∀ (s : State) (bytes : List Byte) (f : Frame), judge .e bytes = .good f →
    (f.kind = kindCall → exec (.frameReceived .e bytes) s = exec (.call (callBody f.body).1 (callBody f.body).2) s) ∧
    (f.kind = kindEngstat → ∀ rest,
      (∀ t : Tray, f.body = 1 :: indexByte t :: rest → exec (.frameReceived .e bytes) s = exec (.trayEmpty t rest) s) ∧
      (∀ t : Tray, f.body = 2 :: indexByte t :: rest → exec (.frameReceived .e bytes) s = exec (.trayFilled t rest) s) ∧
      (∀ b : Bin, f.body = 3 :: indexByte b :: rest → exec (.frameReceived .e bytes) s = exec (.binFull b rest) s) ∧
      (∀ b : Bin, f.body = 4 :: indexByte b :: rest → exec (.frameReceived .e bytes) s = exec (.binCleared b rest) s) ∧
      (∀ b : Bin, f.body = 5 :: indexByte b :: rest → exec (.frameReceived .e bytes) s = exec (.setEjected b rest) s) ∧
      (∀ b : Bin, f.body = 6 :: indexByte b :: rest → exec (.frameReceived .e bytes) s = exec (.compileFault b rest) s) ∧
      (f.body = 7 :: rest → exec (.frameReceived .e bytes) s = exec (.engineFault rest) s) ∧
      (unread s f.body = true → exec (.frameReceived .e bytes) s = exec (.engstatUnread f.body) s))

/-- Tier 2. R10, R11, R7. A posting takes the next number; the notice joins the queue, or begins at once when the U-port
is free, or is dropped when 32 wait. A reply stands in its place, or begins at once when the U-port is free. At the end of a U-port transmission the first of REPLY, NOTICE, ENGSTAT that waits
begins; with none under way nothing changes (log 2). -/
def Obligations.NoticesAndUTransmitter : Prop :=
  (∀ (n : Notice) (s : State),
    (s.li.notices.length < 32 → s.li.uTx.isSome → post n s = { s with li := { s.li with
      noticeCounter := s.li.noticeCounter + 1, notices := s.li.notices ++ [⟨s.li.noticeCounter, n⟩] } }) ∧
    (32 ≤ s.li.notices.length → post n s = { s with li := { s.li with
      noticeCounter := s.li.noticeCounter + 1, dropped := true } }) ∧
    (s.li.uTx = none → s.li.reply = none → s.li.notices = [] → post n s = { s with li := { s.li with
      noticeCounter := s.li.noticeCounter + 1, uTx := some (.notice ⟨s.li.noticeCounter, n⟩) } })) ∧
  (∀ (r : Reply) (l : Link),
    (l.uTx.isSome → l.answer r = { l with reply := some r }) ∧
    (l.uTx = none → l.answer r = { l with reply := none, uTx := some (.reply r) })) ∧
  ∀ s : State, s.porst = false →
    (s.li.uTx = none → exec .uFrameSent s = .next s) ∧
    ∀ x, s.li.uTx = some x →
      (∀ r, s.li.reply = some r → exec .uFrameSent s =
        .next { s with li := { s.li with reply := none, uTx := some (.reply r) } }) ∧
      (∀ n ns, s.li.reply = none → s.li.notices = n :: ns → exec .uFrameSent s =
        .next { s with li := { s.li with notices := ns, uTx := some (.notice n) } }) ∧
      (∀ f fs, s.li.reply = none → s.li.notices = [] → s.li.upward = f :: fs → exec .uFrameSent s =
        .next { s with li := { s.li with upward := fs, uTx := some (.engstat f) } }) ∧
      (s.li.reply = none → s.li.notices = [] → s.li.upward = [] → exec .uFrameSent s =
        .next { s with li := { s.li with uTx := none } })

/-- Tier 2. R5, R12. The E-port begins the first of HALT, DIVERT, RUNOUT, BANDOUT, FEED, ENGCMD that waits; the end of a
FEED, RUNOUT, DIVERT or ENGCMD frees it. A frame that is placed waits while another is under way (one HALT however often
it is placed, and beside a HALT in transmission too; the DIVERTs in a queue), and begins at once at a free E-port. An
ENGCMD leaves the FIFO for its empty place; with nothing under way, or the place taken, nothing changes (log 2). -/
def Obligations.ETransmitterOrder : Prop :=
  (∀ l : Link, l.eTx = none →
    (l.haltPlace = true → l.startE = { l with haltPlace := false, eTx := some .halt }) ∧
    (∀ t ts, l.haltPlace = false → l.divertQueue = t :: ts →
      l.startE = { l with divertQueue := ts, eTx := some (.divert t) }) ∧
    (∀ r, l.haltPlace = false → l.divertQueue = [] → l.runoutPlace = some r →
      l.startE = { l with runoutPlace := none, eTx := some (.runout r) }) ∧
    (∀ b, l.haltPlace = false → l.divertQueue = [] → l.runoutPlace = none → l.bandoutPlace = some b →
      l.startE = { l with bandoutPlace := none, eTx := some (.bandout b) }) ∧
    (∀ f, l.haltPlace = false → l.divertQueue = [] → l.runoutPlace = none → l.bandoutPlace = none →
      l.feedPlace = some f → l.startE = { l with feedPlace := none, eTx := some (.feed f) }) ∧
    (∀ c, l.haltPlace = false → l.divertQueue = [] → l.runoutPlace = none → l.bandoutPlace = none →
      l.feedPlace = none → l.engcmdPlace = some c → l.startE = { l with engcmdPlace := none, eTx := some (.engcmd c) }) ∧
    (l.haltPlace = false → l.divertQueue = [] → l.runoutPlace = none → l.bandoutPlace = none → l.feedPlace = none →
      l.engcmdPlace = none → l.startE = l)) ∧
  (∀ l : Link, l.eTx.isSome →
    l.placeHalt = { l with haltPlace := true } ∧
    (∀ t, l.placeDivert t = { l with divertQueue := l.divertQueue ++ [t] }) ∧
    (∀ r, l.placeRunout r = { l with runoutPlace := some r }) ∧
    (∀ b, l.placeBandout b = { l with bandoutPlace := some b }) ∧
    (∀ f, l.placeFeed f = { l with feedPlace := some f }) ∧
    ∀ c, l.placeEngcmd c = { l with engcmdPlace := some c }) ∧
  (∀ l : Link, LinkOk l → l.eTx = none →
    l.placeHalt = { l with eTx := some .halt } ∧
    (∀ t, l.placeDivert t = { l with eTx := some (.divert t) }) ∧
    (∀ r, l.placeRunout r = { l with eTx := some (.runout r) }) ∧
    (∀ b, l.placeBandout b = { l with eTx := some (.bandout b) }) ∧
    (∀ f, l.placeFeed f = { l with eTx := some (.feed f) }) ∧
    ∀ c, l.placeEngcmd c = { l with eTx := some (.engcmd c) }) ∧
  (∀ (s : State) (x : EOut), s.porst = false → s.li.eTx = some x → x ≠ .halt → (∀ b, x ≠ .bandout b) →
    exec .eFrameSent s = .next (watchGate s { s with li := Link.startE { s.li with eTx := none } })) ∧
  (∀ s : State, s.porst = false → s.li.eTx = none → exec .eFrameSent s = .next s) ∧
  (∀ (s : State) (f : Frame) (rest : List Frame), s.porst = false → s.li.fifo = f :: rest → f.kind = kindEngcmd →
    s.li.engcmdPlace = none →
    (s.li.eTx.isSome → exec .engcmd s = .next { s with li := { s.li with fifo := rest, engcmdPlace := some f } }) ∧
    (LinkOk s.li → s.li.eTx = none →
      exec .engcmd s = .next { s with li := { s.li with fifo := rest, eTx := some (.engcmd f) } })) ∧
  (∀ s : State, s.li.engcmdPlace ≠ none → exec .engcmd s = .next s)

/-- Tier 2. R13, R41, R44, R105, R124. A HALT has been sent: a waiting BANDOUT is discarded, the divider and the still
detector begin again from 0, a replay in progress is abandoned, and the E-port goes on. The pin of an abandoned replay
is released, and a line marked invalidate on unpin becomes INVALID. -/
def Obligations.HaltSent : Prop :=
  (∀ (s : State) (k : PageKey),
    (s.pgd.lookup k = none → unpinAbandoned k s = s) ∧
    ∀ i l, s.pgd.lookup k = some (i, l) →
      (l.invalidateOnUnpin = true → unpinAbandoned k s = { s with pgd := s.pgd.dropWay i }) ∧
      (l.invalidateOnUnpin = false →
        unpinAbandoned k s = { s with pgd := s.pgd.putWay i { l with pin := false, invalidateOnUnpin := false } })) ∧
  ∀ s : State, s.porst = false → s.li.eTx = some .halt →
    let s1 := { s with
      li := { s.li with eTx := none, bandoutPlace := none }
      ckm := { s.ckm with partialCount := 0, stillCount := 0, still := .watching } }
    (s.cre.reader = .idle → exec .haltSent s = .next (watchGate s { s1 with li := s1.li.startE })) ∧
    (s.cre.reader = .draining → exec .haltSent s =
      .next (watchGate s { s1 with li := s1.li.startE, cre := { s.cre with pendingCall := none } })) ∧
    (∀ c chain n, s.cre.reader = .streaming c chain n → s.cre.port = some .replay → exec .haltSent s =
      .next (watchGate s { unpinAbandoned c.key s1 with
        li := s1.li.startE
        cre := { s.cre with buffer := none, pendingCall := none, reader := .draining } })) ∧
    (∀ c chain n, s.cre.reader = .streaming c chain n → s.cre.port ≠ some .replay → exec .haltSent s =
      .next (watchGate s { unpinAbandoned c.key s1 with
        li := s1.li.startE
        cre := { s.cre with
          buffer := none, pendingCall := none, reader := .idle, replayWaiting := false
          run := if s.cre.replayWaiting then 0 else s.cre.run } }))

/-! ## Requests of the link and the path description -/

/-- Tier 2. R6, R7. The LI itself answers an unknown code and a wrong length; a request of any row waits while the reply
place holds a reply. The lengths are those of R184 and R18; a LOAD ROUTE body too short to hold the loaded field is row
LOAD_ROUTE's (log 24). -/
def Obligations.RequestsTheLinkAnswers : Prop :=
  (∀ (s : State) (q : Request) (rest : List Frame), Requested s q rest →
    q.code ≠ codeLoadRoute → (∀ x ∈ requestRows, q.code ≠ x.2.1) →
    exec .mgmtUnknownRequest s = .next (s.answered q .refusedUnknown [] rest)) ∧
  (∀ (c : Instr) (code n : Nat), (c, code, n) ∈ requestRows → ∀ (s : State) (q : Request) (rest : List Frame),
    Requested s q rest → q.code = code → q.body.length ≠ n →
    exec c s = .next (s.answered q .refusedInvalid [] rest)) ∧
  (∀ (s : State) (q : Request) (rest : List Frame), Requested s q rest → q.code = codeLoadRoute →
    ¬(9 ≤ q.body.length ∧ byteAt q.body 8 ≤ 12 ∧ q.body.length = 9 + 10 * byteAt q.body 8) →
    exec (if unloads q then .unloadRoute else .loadRoute) s = .next (s.answered q .refusedInvalid [] rest)) ∧
  ∀ c ∈ requestCommands, ∀ s : State, s.li.reply ≠ none → exec c s = .next s

/-- Tier 2. R14. READ STATUS reports the mode, the Path State, the flag, the counts and the queues (in the order and
codes of R185), then clears the flag and, with clear-counters, the counts. -/
def Obligations.ReadStatusReportsAndClears : Prop :=
  ∀ (s : State) (q : Request) (rest : List Frame), Requested s q rest → q.code = codeReadStatus → q.body.length = 4 →
    let l := (s.answered q .done (num1 s.pds.mode.code ++ num1 s.stk.path.code ++ yesNo s.li.dropped ++
      half s.li.checkCount ++ half s.li.formatCount ++ half s.li.overrunCount ++ num1 s.li.notices.length ++
      num1 s.li.upward.length ++ half s.li.noticeCounter) rest).li
    exec .readStatus s = .next { s with
      li := if byteAt q.body 3 = 0 then { l with dropped := false }
        else { l with dropped := false, checkCount := 0, formatCount := 0, overrunCount := 0 } }

/-- Tier 2. R15, with the soft-reset values of the chapters' tables (R17, R20, R22, R23, R26, R48, R49, R77, R86, R97,
R116, R129, R130, R134, R141, R143, R162). The counts of inner events that are due are dropped, but accepted edges and
cover events kept (R48; log 21). A job entry's id and class, a route's unused fields and the admission origin take the
values of logs 11 and 13. -/
def Obligations.ResetPart : Prop :=
  ∀ (s : State) (q : Request) (rest : List Frame), Requested s q rest → q.code = codeResetPart → q.body.length = 3 →
    exec .resetPart s = .next { s with
      li := Link.answer ⟨q.tag, BitVec.ofNat 8 q.code, .done, []⟩
        (Link.placeHalt { Link.reset with uTx := s.li.uTx, eTx := s.li.eTx })
      pds := { s.pds with mode := .setup }
      ckm := { s.ckm with
        partialCount := 0, tc := 0, advances := [], still := .watching, stillCount := 0, stillDue := 0 }
      stk := { sheets := [], levels := s.stk.levels, path := .halted, due := [] }
      dlu := ⟨Vector.replicate 6 ⟨false, 0, none⟩, none⟩
      pgd := { Directory.reset with keepPath := s.pgd.keepPath, keepSet := s.pgd.keepSet }
      cre := { Capture.reset with
        write := if s.cre.port = some .capture then s.cre.write else none
        dram := s.cre.dram
        lengths := s.cre.lengths
        reader := if s.cre.port = some .replay then .draining else .idle
        port := s.cre.port }
      ogt := { Gate.reset with trays := s.ogt.trays.map fun t => ⟨t.empty, false, false⟩ }
      rcc := Recovery.reset }

/-- Tier 2. R18, R26, R184. LOAD ROUTE with loaded not no: refused in RUNNING; in SETUP the first failing field is
named, a step's with its step index bare after the offset (log 16), or the route is replaced whole. A loaded byte from
2 on is itself a failing field (log 24). -/
def Obligations.LoadRoute : Prop :=
  ∀ (s : State) (q : Request) (rest : List Frame), Requested s q rest → q.code = codeLoadRoute →
    9 ≤ q.body.length → byteAt q.body 8 ≤ 12 → q.body.length = 9 + 10 * byteAt q.body 8 → byteAt q.body 4 ≠ 0 →
    (s.pds.mode = .running → exec .loadRoute s = .next (s.answered q .refusedMode [] rest)) ∧
    (s.pds.mode = .setup → ∀ field, routeFault q.body = some field →
      exec .loadRoute s = .next (s.answered q .refusedInvalid field rest)) ∧
    (s.pds.mode = .setup → routeFault q.body = none → ∀ n : RouteNo, n.val = byteAt q.body 3 →
      exec .loadRoute s = .next ({ s with
        pds := { s.pds with routes := upd s.pds.routes n fun _ => routeAt q.body } }.answered q .done [] rest))

/-- Tier 2. R19. Unloading: refused in RUNNING; in SETUP a route above 15 or a step count that is not 0 is named (the
route first: log 24); else the entry is not loaded and has no steps, and one that was so already does not change. Its
tray, bin and duplex stay (log 11). -/
def Obligations.UnloadRoute : Prop :=
  ∀ (s : State) (q : Request) (rest : List Frame), Requested s q rest → q.code = codeLoadRoute →
    9 ≤ q.body.length → byteAt q.body 8 ≤ 12 → q.body.length = 9 + 10 * byteAt q.body 8 → byteAt q.body 4 = 0 →
    (s.pds.mode = .running → exec .unloadRoute s = .next (s.answered q .refusedMode [] rest)) ∧
    (s.pds.mode = .setup → 16 ≤ byteAt q.body 3 →
      exec .unloadRoute s = .next (s.answered q .refusedInvalid [3] rest)) ∧
    (s.pds.mode = .setup → byteAt q.body 3 < 16 → byteAt q.body 8 ≠ 0 →
      exec .unloadRoute s = .next (s.answered q .refusedInvalid [8] rest)) ∧
    (s.pds.mode = .setup → byteAt q.body 8 = 0 → ∀ n : RouteNo, n.val = byteAt q.body 3 →
      exec .unloadRoute s = .next ({ s with
        pds := { s.pds with routes := upd s.pds.routes n fun r => { r with loaded := false, steps := [] } } }.answered
          q .done [] rest) ∧
      (s.pds.routes[n].loaded = false → s.pds.routes[n].steps = [] →
        exec .unloadRoute s = .next (s.answered q .done [] rest)))

/-- Tier 2. R21, R184. LOAD BIN: refused in RUNNING; in SETUP the first failing field is named, or the entry is written.
That BP as a compile bin and a second compile bin name the kind byte, and that configured = no judges nothing after it,
is log 24. -/
def Obligations.LoadBin : Prop :=
  ∀ (s : State) (q : Request) (rest : List Frame), Requested s q rest → q.code = codeLoadBin → q.body.length = 7 →
    (s.pds.mode = .running → exec .loadBin s = .next (s.answered q .refusedMode [] rest)) ∧
    (s.pds.mode = .setup →
      (7 ≤ byteAt q.body 3 → exec .loadBin s = .next (s.answered q .refusedInvalid [3] rest)) ∧
      ∀ n : Fin 7, n.val = byteAt q.body 3 →
        (2 ≤ byteAt q.body 4 → exec .loadBin s = .next (s.answered q .refusedInvalid [4] rest)) ∧
        (byteAt q.body 4 = 0 → exec .loadBin s = .next ({ s with
          pds := { s.pds with bins := upd s.pds.bins n fun _ => ⟨false, .plain⟩ } }.answered q .done [] rest)) ∧
        (byteAt q.body 4 = 1 →
          (2 ≤ byteAt q.body 5 → exec .loadBin s = .next (s.answered q .refusedInvalid [5] rest)) ∧
          (byteAt q.body 5 = 1 → n = 6 → exec .loadBin s = .next (s.answered q .refusedInvalid [5] rest)) ∧
          (byteAt q.body 5 = 1 → n ≠ 6 → (∃ b : Fin 7, b ≠ n ∧ s.pds.bins[b] = ⟨true, .compile⟩) →
            exec .loadBin s = .next (s.answered q .refusedInvalid [5] rest)) ∧
          (byteAt q.body 5 = 0 → n = 6 → 24 ≤ byteAt q.body 6 →
            exec .loadBin s = .next (s.answered q .refusedInvalid [6] rest)) ∧
          (byteAt q.body 5 = 0 → ∀ c : Checkpoint, n = 6 → c.val = byteAt q.body 6 → exec .loadBin s = .next ({ s with
            pds := { s.pds with bins := upd s.pds.bins n fun _ => ⟨true, .plain⟩, purgeExit := c } }.answered
              q .done [] rest)) ∧
          (byteAt q.body 5 = 0 → n ≠ 6 → exec .loadBin s = .next ({ s with
            pds := { s.pds with bins := upd s.pds.bins n fun _ => ⟨true, .plain⟩ } }.answered q .done [] rest)) ∧
          (byteAt q.body 5 = 1 → n ≠ 6 → (∀ b : Fin 7, b ≠ n → s.pds.bins[b] ≠ ⟨true, .compile⟩) →
            exec .loadBin s = .next ({ s with
              pds := { s.pds with bins := upd s.pds.bins n fun _ => ⟨true, .compile⟩ } }.answered q .done [] rest))))

/-- Tier 2. R22, R184: the reset values of the Tray Table and LOAD TRAY. A configured byte from 2 on is refused (log
24). -/
def Obligations.LoadTray : Prop :=
  (∀ t : Tray, State.reset.pds.trays[t] = false) ∧
  (∀ s : State, (softReset s).pds.trays = s.pds.trays) ∧
  ∀ (s : State) (q : Request) (rest : List Frame), Requested s q rest → q.code = codeLoadTray → q.body.length = 5 →
    (s.pds.mode = .running → exec .loadTray s = .next (s.answered q .refusedMode [] rest)) ∧
    (s.pds.mode = .setup → 6 ≤ byteAt q.body 3 ∨ 2 ≤ byteAt q.body 4 →
      exec .loadTray s = .next (s.answered q .refusedInvalid [] rest)) ∧
    (s.pds.mode = .setup → ∀ (t : Tray) (v : Bool), t.val = byteAt q.body 3 → v.toNat = byteAt q.body 4 →
      exec .loadTray s = .next ({ s with
        pds := { s.pds with trays := upd s.pds.trays t fun _ => v } }.answered q .done [] rest))

/-- Tier 2. R24, R25. SET TIMING: the first value out of range is named by its position and nothing changes; else all
eleven are replaced together, the cover sample timer restarts, the partial count is cleared when TDIV changes, and a
still detector whose wait already reaches the new interval posts path still. Equal values change nothing (log 19). -/
def Obligations.SetTiming : Prop :=
  ∀ (s : State) (q : Request) (rest : List Frame), Requested s q rest → q.code = codeSetTiming → q.body.length = 18 →
    let t := timingAt q.body
    (s.pds.mode = .running → exec .setTiming s = .next (s.answered q .refusedMode [] rest)) ∧
    (s.pds.mode = .setup → ∀ i : Nat, t.checks[i]? = some false → (∀ j < i, t.checks[j]? = some true) →
      exec .setTiming s = .next (s.answered q .refusedInvalid (num1 (i + 1)) rest)) ∧
    (s.pds.mode = .setup → (∀ x ∈ t.checks, x = true) → t = s.pds.timing →
      exec .setTiming s = .next (s.answered q .done [] rest)) ∧
    (s.pds.mode = .setup → (∀ x ∈ t.checks, x = true) → t ≠ s.pds.timing →
      let posts := decide (s.ckm.still = .watching ∧ t.stillMs ≤ s.ckm.stillCount)
      exec .setTiming s = .next ({ s with
        pds := { s.pds with timing := t }
        ckm := { s.ckm with
          partialCount := if t.tdiv = s.pds.timing.tdiv then s.ckm.partialCount else 0
          coverTicks := 0
          still := if posts then .still else s.ckm.still
          stillDue := if posts then s.ckm.stillDue + 1 else s.ckm.stillDue } }.answered q .done [] rest))

/-- Tier 2. R27, R29. START: refused in RUNNING, for a description that fails, and over a covered checkpoint; else
RUNNING and MOVING, the reply in its place, and then an open cover opens an INTERLOCK (log 9). -/
def Obligations.Start : Prop :=
  ∀ (s : State) (q : Request) (rest : List Frame), Requested s q rest → q.code = codeStart → q.body.length = 3 →
    (s.pds.mode = .running → exec .start s = .next (s.answered q .refusedMode [] rest)) ∧
    (s.pds.mode = .setup →
      (∀ f, startFault s.pds = some f → exec .start s = .next (s.answered q .refusedInvalid
        (num1 f.item ++ opt (fun n => num1 n.val) f.route ++ opt num1 f.step) rest)) ∧
      (startFault s.pds = none → s.ckm.ckHeld ≠ 0 → exec .start s = .next (s.answered q .refusedState
        (listed (fun c : Checkpoint => num1 c) ((List.finRange 24).filter fun c => s.ckm.ckHeld.getLsbD c.val)) rest)) ∧
      (startFault s.pds = none → s.ckm.ckHeld = 0 →
        let t := { s with
          pds := { s.pds with mode := .running }, stk := { s.stk with path := .moving } }.answered q .done [] rest
        (s.ckm.cvHeld = 0 → exec .start s = .next (watchGate s t)) ∧
        ∀ c : Cover, s.ckm.cvHeld.getLsbD c.val = true → (∀ d : Cover, d < c → s.ckm.cvHeld.getLsbD d.val = false) →
          exec .start s = .next (watchGate s (raiseInterlock c t))))

/-- Tier 2. R30. STOP: refused in SETUP; BUSY, with what is left, while a sheet, an entry or an open incident remains (the
open classes in level order: log 18); else SETUP, HALTED and a HALT placed. -/
def Obligations.Stop : Prop :=
  ∀ (s : State) (q : Request) (rest : List Frame), Requested s q rest → q.code = codeStop → q.body.length = 3 →
    let emptyAndClear := s.stk.sheets = [] ∧ s.ogt.orq = [] ∧ s.ogt.ril = [] ∧ ∀ c, s.rcc.get c = none
    (s.pds.mode = .setup → exec .stop s = .next (s.answered q .refusedMode [] rest)) ∧
    (s.pds.mode = .running → ¬emptyAndClear → exec .stop s = .next (s.answered q .refusedBusy
      (num1 s.stk.sheets.length ++ num1 s.ogt.orq.length ++ num1 s.ogt.ril.length ++
        listed (fun c : IncClass => num1 c.level) (IncClass.all.filter fun c => (s.rcc.get c).isSome)) rest)) ∧
    (s.pds.mode = .running → emptyAndClear → exec .stop s = .next ({ s with
      pds := { s.pds with mode := .setup }
      stk := { s.stk with path := .halted }
      li := s.li.placeHalt }.answered q .done [] rest))

/-- Tier 2. R76, R93, R110, R147, R161, R50, R185. The reading requests answer DONE with what they report, and change
nothing else. The bodies, spelled field by field, follow logs 16 and 17; a hold list stands in the order of log 18. A
media length is one byte: the number up to 255, and above it some byte, a free value (log 15). -/
def Obligations.ReadRequests : Prop :=
  (∀ (s : State) (q : Request) (rest : List Frame), Requested s q rest →
    (q.code = codeReadSheets → q.body.length = 3 → exec .readSheets s = .next (s.answered q .done
      (num1 s.stk.path.code ++ num1 s.stk.sheets.length ++ s.stk.sheets.flatMap sheetBytes ++ count4 s.ckm.tc) rest)) ∧
    (q.code = codeReadBin → q.body.length = 4 →
      (∀ b : Bin, b.val = byteAt q.body 3 → exec .readBin s = .next (s.answered q .done (binReply s b) rest)) ∧
      (6 ≤ byteAt q.body 3 → exec .readBin s = .next (s.answered q .refusedInvalid [] rest))) ∧
    (q.code = codeInquirePage → q.body.length = 7 →
      (∀ j : JobSlot, j.val = byteAt q.body 3 →
        exec .inquirePage s = .next (s.answered q .done (pageReply s ⟨j, pageAt q.body 4⟩) rest)) ∧
      (8 ≤ byteAt q.body 3 → exec .inquirePage s = .next (s.answered q .refusedInvalid [] rest))) ∧
    (q.code = codeReadQueues → q.body.length = 3 →
      exec .readQueues s = .next (s.answered q .done (queuesReply s) rest)) ∧
    (q.code = codeReadIncidents → q.body.length = 3 →
      exec .readIncidents s = .next (s.answered q .done (incidentsReply s) rest))) ∧
  (∀ r : Sheet, sheetBytes r =
    num1 r.slot ++ half r.tag ++ num4 r.seq ++ num1 r.job ++ snapshotBytes r.snap ++ count4 r.feedStamp ++
      num1 r.state.code ++ num1 r.next.code ++
      listed (fun e : Occupied => num1 e.ck ++ num1 e.step.code ++ count4 e.lead ++ count4 e.base) r.occupied ++
      opt count4 r.runoutStamp ++ num1 r.sides.code ++ opt (fun x : Stage => num1 x.code) r.stage ++
      opt (fun x : Disposition => num1 x.code) r.disposition ++ yesNo r.suspect ++ yesNo r.outOfOrder ++
      yesNo r.reissued ++ num1 r.retries) ∧
  (∀ n : Snapshot, ∃ media : Byte, (n.media < 256 → media = BitVec.ofNat 8 n.media) ∧
    snapshotBytes n = num1 n.route ++ [media] ++ key4 n.front ++ opt key4 n.back ++
      opt (fun x : Nat × Bool => bytes2 x.1 ++ yesNo x.2) n.set) ∧
  (∀ (s : State) (b : Bin),
    let staged := fun r : Sheet => num1 r.slot ++ half r.tag ++ num4 r.seq ++ num1 r.job ++ yesNo r.suspect
    let listing := fun l : List Protected =>
      listed (fun p : Protected => num4 p.seq ++ key4 p.snap.front ++ opt key4 p.snap.back) l
    let set := fun o : OpenSet => num1 o.bin ++ num1 o.job ++ bytes2 o.set ++ num4 o.before ++ num4 o.first ++
      num4 o.last ++ num4 o.count ++ yesNo o.endCompiled ++ yesNo o.guarded.isSome ++ opt listing o.guarded
    binReply s b = num1 s.pds.bins[b.val].kind.code ++ yesNo s.pds.bins[b.val].configured ++ yesNo s.dlu.bins[b].full ++
      num4 s.dlu.bins[b].lastDelivered ++ yesNo (s.frozen b) ++ bytes2 (s.dlu.bins[b].timer.getD 0) ++
      opt staged (s.staged b .b) ++ opt staged (s.staged b .a) ++
      opt set (s.dlu.openSet.filter fun o => decide (o.bin = b))) ∧
  (∀ (s : State) (k : PageKey),
    let tail := yesNo s.pgd.keepPath ++ yesNo s.pgd.keepSet ++ opt (fun w : Walk => num1 w.next) s.pgd.walk ++
      bytes2 s.pgd.free.length
    (s.pgd.lookup k = none → pageReply s k = 0 :: tail) ∧
    ∀ i l, s.pgd.lookup k = some (i, l) →
      let settling := match l.owner with
        | some q => s.stk.sheets.any fun r => decide (r.state = .settling ∧ r.seq = q)
        | none => false
      pageReply s k = 1 :: num1 (i / 4) ++ num1 (i % 4) ++ num1 l.state.code ++ opt num4 l.owner ++
        num1 l.chain.length ++ num4 l.bytes ++ num1 l.cls.level ++
        opt (fun t : SetTag => num1 t.job ++ bytes2 t.set) l.setTag ++ yesNo l.pin ++ yesNo settling ++ tail) ∧
  (∀ s : State,
    let entry := fun e : Entry => num4 e.seq ++ num1 e.job ++ snapshotBytes e.snap ++ yesNo e.resend
    let reissued := fun e : Entry => entry e ++ num1 ((e.origin.map Origin.code).getD 0) ++ num1 e.retries
    let job := fun j : Job => num1 j.state.code ++ bytes2 j.id ++ num1 j.cls.level ++ num1 j.orq ++ num1 j.ril ++
      num1 j.stt ++ num4 j.set ++ num4 j.delivered ++ num4 j.purged ++ num4 j.removed
    let tray := fun t : TrayFlags =>
      num1 (if t.held then 2 else if t.empty then 1 else 0) ++ yesNo t.empty ++ yesNo t.held ++ yesNo t.supplyReported
    let source := if s.ogt.ril ≠ [] then 1 else if s.ogt.orq ≠ [] then 2 else 0
    queuesReply s = num4 s.ogt.seqCounter ++ half s.ogt.tagCounter ++ opt half s.ogt.interlock ++
      opt (fun t : SetTag => num1 t.job ++ bytes2 t.set) s.ogt.compileSet ++ num1 source ++
      opt num4 (s.ogt.head.map (·.seq)) ++ listed entry s.ogt.orq ++ listed reissued s.ogt.ril ++
      listed job s.ogt.jobs.toList ++ s.ogt.trays.toList.flatMap tray) ∧
  ∀ s : State,
    let details := fun i : Incident => listed detailBytes i.details
    let record := fun (c : IncClass) (i : Incident) =>
      num1 i.phase.code ++ num1 i.first.code ++ num1 i.count ++ details i ++
        if c = .jam then yesNo i.setPurge ++ yesNo i.runoutDone
        else if c = .misfeed then listed objBytes i.hold ++ (match i.misfeed with
          | some m => num4 m.seq ++ half m.tag ++ num1 m.tray ++ yesNo m.judged
          | none => [])
        else if c = .supply then listed objBytes i.hold
        else []
    let class' := fun c : IncClass => num1 (match s.rcc.statusOf c with
      | none => 0 | some .pending => 1 | some .active => 2 | some .preempted => 3) ++ opt (record c) (s.rcc.get c)
    incidentsReply s = opt (fun c : IncClass => num1 c.level) s.rcc.active ++
      class' .interlock ++ class' .jam ++ class' .misfeed ++ class' .supply ++
      listed (fun c : IncClass => num1 c.level ++ num1 (((s.rcc.get c).map (·.phase.code)).getD 0)) s.rcc.stack.reverse ++
      bytes2 (s.rcc.coverTimer.getD 0)

/-! ## The Page Directory -/

/-- Tier 2. R97, R111, R184. SET RETENTION MODE and DROP PAGE. A mode flag from 2 on is refused (log 24). -/
def Obligations.RetentionModeAndDropPage : Prop :=
  ((State.reset.pgd.keepPath = true ∧ State.reset.pgd.keepSet = true) ∧
  (∀ s : State, (softReset s).pgd.keepPath = s.pgd.keepPath ∧ (softReset s).pgd.keepSet = s.pgd.keepSet) ∧
  (∀ d : Directory, d.pairClass =
    if d.keepSet then .full else if d.keepPath then .path else .none) ∧
  ∀ (s : State) (q : Request) (rest : List Frame), Requested s q rest → q.code = codeSetRetentionMode →
    q.body.length = 5 →
    (2 ≤ byteAt q.body 3 ∨ 2 ≤ byteAt q.body 4 ∨ (byteAt q.body 3 = 0 ∧ byteAt q.body 4 = 1) →
      exec .setRetentionMode s = .next (s.answered q .refusedInvalid [] rest)) ∧
    (∀ p e : Bool, p.toNat = byteAt q.body 3 → e.toNat = byteAt q.body 4 → (p = false → e = false) →
      exec .setRetentionMode s = .next ({ s with
        pgd := { s.pgd with keepPath := p, keepSet := e } }.answered q .done [] rest))) ∧
  ∀ (s : State) (q : Request) (rest : List Frame), Requested s q rest → q.code = codeDropPage → q.body.length = 7 →
    (8 ≤ byteAt q.body 3 → exec .dropPage s = .next (s.answered q .refusedInvalid [] rest)) ∧
    ∀ j : JobSlot, j.val = byteAt q.body 3 →
      let k : PageKey := ⟨j, pageAt q.body 4⟩
      (s.pgd.lookup k = none → exec .dropPage s = .next (s.answered q .refusedState [] rest)) ∧
      ∀ i l, s.pgd.lookup k = some (i, l) →
        (l.pin = true ∨ l.state = .filling ∨ l.state = .locked ∨ (l.state = .ready ∧ l.owner.isSome) →
          exec .dropPage s = .next (s.answered q .refusedBusy [] rest)) ∧
        (l.pin = false → l.state = .released ∨ (l.state = .ready ∧ l.owner = none) → exec .dropPage s =
          .next (watchGate s ({ s with pgd := s.pgd.dropWay i }.answered q .done (num1 l.state.code) rest))) ∧
        (∀ t, l.pin = false → l.state = .setheld → l.setTag = some t → exec .dropPage s = .next (watchGate s
          ((loseProtection t { s.taken rest with pgd := s.pgd.dropWay i }).replied q .done (num1 l.state.code))))

/-- Tier 2. R112. FLUSH: BUSY while a walk is active; else the walk begins at set 0 with the request's options, FLUSH
BEGIN is posted and the reply is DONE. -/
def Obligations.Flush : Prop :=
  ∀ (s : State) (q : Request) (rest : List Frame), Requested s q rest → q.code = codeFlush → q.body.length = 5 →
    (s.pgd.walk.isSome → exec .flush s = .next (s.answered q .refusedBusy [] rest)) ∧
    (s.pgd.walk = none →
      let sets := decide (byteAt q.body 3 ≠ 0)
      let report := decide (byteAt q.body 4 ≠ 0)
      exec .flush s = .next ({ s.taken rest with
        pgd := { s.pgd with walk := some ⟨0, sets, report, 0, []⟩ }
        li := Link.post (.flushBegin sets report) (s.taken rest).li }.replied q .done []))

/-- Tier 2. R113, R114, R88, R108. The walk of one set completes: each unpinned RELEASED line of the set, and with
include-sets each unpinned SETHELD line, becomes INVALID, is counted and, with report, listed; a FLUSH REPORT goes out
at each 16 keys. When a SETHELD line was taken, the set its tag names loses its protection: exactly that set, when the
Open Set Record holds it protected, ceases to be guarded and its other SETHELD lines become RELEASED; every other line
stays, and so do the replacement bits. After set 63 the keys left are reported, FLUSH END is posted and the walk is
inactive. Without a walk nothing changes (log 2). -/
def Obligations.FlushWalkStep : Prop :=
  (∀ s : State, s.pgd.walk = none → exec .flushWalkStep s = .next s) ∧
  ∀ (s : State) (w : Walk), s.porst = false → Cells.Rising s.pgd.lines → s.pgd.walk = some w → WalkOk s.pgd →
    let takes := fun p : Nat × Line => decide (p.1 / 4 = w.next) && !p.2.pin &&
      decide (p.2.state = .released ∨ (p.2.state = .setheld ∧ w.includeSets = true))
    let taken := s.pgd.lines.filter takes
    let lost := ((taken.filter fun p => decide (p.2.state = .setheld)).getLast?).bind fun p => p.2.setTag
    let loses := fun o : OpenSet => decide (o.guarded.isSome ∧ lost = some ⟨o.job, o.set⟩)
    let after := fun l : Line =>
      if l.state = .setheld ∧ l.setTag = lost ∧ s.dlu.openSet.any loses = true then
        { l with state := .released, cls := effectiveClass s l.key, owner := none, setTag := none }
      else l
    let count := w.invalidated + taken.length
    let keys := if w.report then w.buffer ++ taken.map fun p => p.2.key else w.buffer
    let left := if 16 ≤ keys.length then keys.drop 16 else keys
    let notices :=
      (if 16 ≤ keys.length then [Notice.flushReport (keys.take 16)] else []) ++
      (if w.next = 63 then
        (if w.report = true ∧ left ≠ [] then [Notice.flushReport left] else []) ++ [Notice.flushEnd count]
      else [])
    exec .flushWalkStep s = .next (watchGate s { s with
      li := notices.foldl (fun l n => Link.post n l) s.li
      dlu := { s.dlu with openSet := s.dlu.openSet.map fun o => if loses o then { o with guarded := none } else o }
      pgd := { s.pgd with
        lines := (s.pgd.lines.filter fun p => !takes p).map fun p => (p.1, after p.2)
        free := s.pgd.free ++ taken.flatMap fun p => p.2.chain
        walk := if w.next = 63 then none else some ⟨w.next + 1, w.includeSets, w.report, count, left⟩ } })

/-! ## Jobs and trays -/

/-- Tier 2. R144, R145. OPEN JOB and CLOSE JOB. An entry that becomes FREE keeps its id, class and totals (log 11). -/
def Obligations.OpenAndCloseJob : Prop :=
  ∀ (s : State) (q : Request) (rest : List Frame), Requested s q rest →
    let held := fun id => ∃ j : JobSlot, s.ogt.jobs[j].state ≠ .free ∧ s.ogt.jobs[j].id = id
    (q.code = codeOpenJob → q.body.length = 6 →
      let id := halfAt q.body 3
      (3 ≤ byteAt q.body 5 ∨ held id → exec .openJob s = .next (s.answered q .refusedInvalid [] rest)) ∧
      (byteAt q.body 5 < 3 → ¬held id → (∀ j : JobSlot, s.ogt.jobs[j].state ≠ .free) →
        exec .openJob s = .next (s.answered q .refusedFull [] rest)) ∧
      (byteAt q.body 5 < 3 → ¬held id → (∃ j : JobSlot, s.ogt.jobs[j].state = .free) →
        (∀ j : JobSlot, s.ogt.jobs[j].state = .free → ∃ p ∈ s.pgd.lines, p.2.key.job = j) →
        exec .openJob s = .next (s.answered q .refusedBusy
          (listed (fun j : JobSlot => num1 j ++ bytes2 (s.pgd.lines.filter fun p => decide (p.2.key.job = j)).length)
            ((List.finRange 8).filter fun j => decide (s.ogt.jobs[j].state = .free))) rest)) ∧
      (∀ (j : JobSlot) (c : Retention), c.level = byteAt q.body 5 → ¬held id → s.ogt.jobs[j].state = .free →
        (∀ p ∈ s.pgd.lines, p.2.key.job ≠ j) →
        (∀ k < j, s.ogt.jobs[k].state ≠ .free ∨ ∃ p ∈ s.pgd.lines, p.2.key.job = k) →
        exec .openJob s = .next ({ s with
          ogt := { s.ogt with jobs := upd s.ogt.jobs j fun _ => ⟨.opened, id, c, 0, 0, 0, 0, 0, 0, 0⟩ } }.answered
            q .done (num1 j) rest))) ∧
    (q.code = codeCloseJob → q.body.length = 5 →
      let id := halfAt q.body 3
      (¬held id → exec .closeJob s = .next (s.answered q .refusedInvalid [] rest)) ∧
      ∀ j : JobSlot, s.ogt.jobs[j].state ≠ .free → s.ogt.jobs[j].id = id →
        (∀ k < j, s.ogt.jobs[k].state = .free ∨ s.ogt.jobs[k].id ≠ id) →
        let b := s.ogt.jobs[j]
        (b.state ≠ .opened → exec .closeJob s = .next (s.answered q .refusedState [] rest)) ∧
        (b.state = .opened → ¬(b.orq = 0 ∧ b.ril = 0 ∧ b.stt = 0 ∧ b.set = 0) → exec .closeJob s = .next ({ s with
          ogt := { s.ogt with jobs := upd s.ogt.jobs j fun b => { b with state := .closing } } }.answered
            q .done [] rest)) ∧
        (b.state = .opened → b.orq = 0 ∧ b.ril = 0 ∧ b.stt = 0 ∧ b.set = 0 → exec .closeJob s = .next
          (post (.jobDone b.id j false b.delivered b.purged b.removed) ({ s with
            ogt := { s.ogt with jobs := upd s.ogt.jobs j fun b => { b with state := .free } } }.answered
              q .done [] rest))))

/-- Tier 2. R146, R109, R88, R108. A job that is cancelled: its entries leave both lists and their lines go, or are
marked to go when pinned, the chains joining the free list's tail entry by entry (log 18); its counts of them are 0; its
set loses its protection, the set's SETHELD lines becoming RELEASED, and its compile order set empties; lines of other
owners stay, and sheets run on. The request leaves the FIFO, the reply is placed, and JOB DONE follows it when no sheet
of the job is left. An entry that becomes FREE keeps its id, class and totals (log 11). -/
def Obligations.CancelJob : Prop :=
  ∀ (s : State) (q : Request) (rest : List Frame), Requested s q rest → q.code = codeCancelJob → q.body.length = 5 →
    let id := halfAt q.body 3
    ((∀ j : JobSlot, s.ogt.jobs[j].state = .free ∨ s.ogt.jobs[j].id ≠ id) →
      exec .cancelJob s = .next (s.answered q .refusedInvalid [] rest)) ∧
    ∀ j : JobSlot, s.ogt.jobs[j].state ≠ .free → s.ogt.jobs[j].id = id →
      (∀ k < j, s.ogt.jobs[k].state = .free ∨ s.ogt.jobs[k].id ≠ id) →
      let b := s.ogt.jobs[j]
      let mine := ((s.ogt.orq ++ s.ogt.ril).filter fun e => decide (e.job = j)).map (·.seq)
      let goes := fun (x : Seq) (p : Nat × Line) => decide (p.2.owner = some x) && !p.2.pin
      let guards := fun (l : Line) (o : OpenSet) =>
        decide (o.job = j ∧ o.guarded.isSome ∧ l.setTag = some ⟨o.job, o.set⟩)
      let marked := fun l : Line => if mine.any (fun x => decide (l.owner = some x)) then
        { l with invalidateOnUnpin := true } else l
      let released := fun l : Line => if l.state = .setheld ∧ s.dlu.openSet.any (guards l) = true then
        { l with state := .released, cls := effectiveClass s l.key, owner := none, setTag := none } else l
      (b.state = .cancelling → exec .cancelJob s = .next (s.answered q .refusedState [] rest)) ∧
      (b.state ≠ .cancelling → ∃ t, exec .cancelJob s = .next (watchGate s t) ∧
        t.stk = s.stk ∧ t.rcc = s.rcc ∧ t.cre = s.cre ∧ t.pds = s.pds ∧ t.ckm = s.ckm ∧ t.dlu.bins = s.dlu.bins ∧
        t.ogt.orq = s.ogt.orq.filter (fun e => decide (e.job ≠ j)) ∧
        t.ogt.ril = s.ogt.ril.filter (fun e => decide (e.job ≠ j)) ∧
        t.ogt.trays = s.ogt.trays ∧ t.ogt.interlock = s.ogt.interlock ∧ t.ogt.seqCounter = s.ogt.seqCounter ∧
        t.ogt.tagCounter = s.ogt.tagCounter ∧
        t.ogt.jobs = upd s.ogt.jobs j (fun b => { b with
          state := if b.stt = 0 ∧ b.set = 0 then .free else .cancelling, orq := 0, ril := 0 }) ∧
        t.ogt.compileSet = (s.ogt.compileSet.filter fun x => decide (x.job ≠ j)) ∧
        (∀ o, s.dlu.openSet = some o → t.dlu.openSet =
          some { o with guarded := if o.job = j then none else o.guarded }) ∧
        (s.dlu.openSet = none → t.dlu.openSet = none) ∧
        t.pgd = { s.pgd with
          lines := (s.pgd.lines.filter fun p => !mine.any fun x => goes x p).map fun p => (p.1, released (marked p.2))
          free := s.pgd.free ++ mine.eraseDups.flatMap fun x => (s.pgd.lines.filter (goes x)).flatMap fun p => p.2.chain } ∧
        let answered := (s.answered q .done
          (num1 (s.ogt.orq.filter fun e => decide (e.job = j)).length ++
            num1 (s.ogt.ril.filter fun e => decide (e.job = j)).length) rest).li
        t.li = if b.stt = 0 ∧ b.set = 0 then
          Link.post (.jobDone b.id j true b.delivered b.purged b.removed) answered else answered)

/-- Tier 2. R142, R154, R157, R158. TRAY READY; and the phases of MISFEED that hold a tray and let it go: the retry
test, RETRY, the test of TRAY-HOLD, and the report of a TRAY READY, which changes nothing unless the MISFEED record is
ACTIVE in TRAY-HOLD. A tray joins the hold list at its tail (log 18). -/
def Obligations.TrayReady : Prop :=
  (∀ (s : State) (q : Request) (rest : List Frame), Requested s q rest → q.code = codeTrayReady → q.body.length = 4 →
    (6 ≤ byteAt q.body 3 → exec .trayReady s = .next (s.answered q .refusedInvalid [] rest)) ∧
    ∀ n : Tray, n.val = byteAt q.body 3 →
      (s.ogt.trays[n].held = false → exec .trayReady s = .next (s.answered q .refusedState [] rest)) ∧
      (s.ogt.trays[n].held = true →
        let used := match s.ogt.head with
          | some e => decide ((s.route e.snap.route).tray = n)
          | none => false
        let t := { s.taken rest with
          ogt := { s.ogt with
            trays := upd s.ogt.trays n fun f => { f with held := false }
            ril := match s.ogt.ril with
              | e :: es => (if used then { e with retries := 0 } else e) :: es
              | [] => [] } }
        exec .trayReady s = .next (watchGate s ((trayReadyReport t).replied q .done [])) ∧
        (s.rcc.activeIn .misfeed .trayHold = false → trayReadyReport t = t))) ∧
  (∀ s : State, s.rcc.activeIn .misfeed .trayHold = true → trayReadyReport s = testTrayHold close s) ∧
  (∀ (s : State) (i : Incident), s.rcc.misfeed = some i →
    let holds := fun o : Obj => match o with
      | .tray n => s.ogt.trays[n].held
      | _ => false
    let u := { s with rcc := { s.rcc with misfeed := some { i with phase := .trayHold, hold := i.hold.filter holds } } }
    (i.hold.filter holds ≠ [] → testTrayHold close s = u) ∧
    (i.hold.filter holds = [] → testTrayHold close s = close .misfeed u)) ∧
  (∀ (s : State) (m : Misfeed),
    let exceeded := fun (job : JobSlot) (n : Nat) => { s with
      ogt := { s.ogt with trays := upd s.ogt.trays m.tray fun f => { f with held := true } }
      li := Link.post (.misfeedReport m.tray m.tag m.seq job n s.pds.timing.misfeedLimit) s.li
      rcc := { s.rcc with misfeed := s.rcc.misfeed.map fun i =>
        if i.hold.contains (.tray m.tray) then i else { i with hold := i.hold ++ [.tray m.tray] } } }
    (∀ before e after, s.ogt.ril = before ++ e :: after → (∀ x ∈ before, x.seq ≠ m.seq) → e.seq = m.seq →
      (e.retries ≤ s.pds.timing.misfeedLimit → retryTest m s = s) ∧
      (s.pds.timing.misfeedLimit < e.retries → retryTest m s = exceeded e.job e.retries)) ∧
    ((∀ x ∈ s.ogt.ril, x.seq ≠ m.seq) →
      ((∀ r ∈ s.stk.sheets, r.seq ≠ m.seq) → retryTest m s = s) ∧
      ∀ before r after, s.stk.sheets = before ++ r :: after → (∀ x ∈ before, x.seq ≠ m.seq) → r.seq = m.seq →
        (r.retries ≤ s.pds.timing.misfeedLimit → retryTest m s = s) ∧
        (s.pds.timing.misfeedLimit < r.retries → retryTest m s = exceeded r.job r.retries))) ∧
  ∀ (s : State) (i : Incident) (m : Misfeed), s.rcc.misfeed = some i → i.misfeed = some m → m.judged = false →
    let t := retryTest m s
    ∀ j, t.rcc.misfeed = some j →
      let u := { t with
        rcc := { t.rcc with misfeed := some { j with phase := .retry, misfeed := some { m with judged := true } } } }
      (j.hold = [] → enterRetry close s = close .misfeed u) ∧
      (j.hold ≠ [] → enterRetry close s = testTrayHold close u)

/-! ## Jam recovery by request -/

/-- Tier 2. R169, R168, R75, R80, R83, R85, R171, R172, R173, R174, R71, R72, R55. CONFIRM CLEAR: refused but in
CLEARANCE; NOT CLEAR with the blocking checkpoints and a CLEARANCE STATUS; or CLEAR, and DISPOSE follows in the same
event. DISPOSE ends the MANUAL sheets, the suspects bin by bin (stage B first: log 34) and the sheets the operator has
taken, marks the later sheets of their bins, orders the bins, asks for the suspects, and goes on to RUNOUT or REBUILD. A
run-out begins, in HALTED alone, with every STRANDED record RUNOUT, fresh stamps, the named records out-of-order and the
RUNOUT frame placed. -/
def Obligations.ConfirmClear : Prop :=
  (∀ (s : State) (q : Request) (rest : List Frame), Requested s q rest → q.code = codeConfirmClear →
    q.body.length = 3 →
    (s.rcc.activeIn .jam .clearance = false → exec .confirmClear s = .next (s.answered q .refusedState [] rest)) ∧
    (s.rcc.activeIn .jam .clearance = true → blockingList s ≠ [] → exec .confirmClear s = .next
      (post (.clearanceStatus (blockingList s)) (s.answered q .done
        (num1 1 ++ listed (fun x => num1 x.1.val ++ opt half x.2) (blockingList s)) rest))) ∧
    (s.rcc.activeIn .jam .clearance = true → blockingList s = [] → exec .confirmClear s =
      .next (watchGate s (enterDispose (s.answered q .done [0, 0] rest))))) ∧
  (∀ (s : State) (c : Checkpoint) (t : Option Tag), (c, t) ∈ blockingList s ↔
    s.stk.levels.getLsbD c.val = true ∧ t = (s.occupant c).map (·.tag) ∧
      ∀ r, s.occupant c = some r → r.disposition = some .manual) ∧
  (∀ (s : State) (i : Incident), s.rcc.jam = some i →
    let s1 := removePass (fun r => decide (r.disposition = some .manual))
      { s with rcc := { s.rcc with jam := some { i with phase := .dispose } } }
    let x := removeSuspects [(0, .b), (0, .a), (1, .b), (1, .a), (2, .b), (2, .a), (3, .b), (3, .a), (4, .b), (4, .a),
      (5, .b), (5, .a)] s1
    let s2 := x.1
    let s3 := removePass (fun r => decide (r.disposition = some .deliver ∨ r.disposition = some .purge) &&
      r.occupied.any fun e => !s2.stk.levels.getLsbD e.ck.val) s2
    let y := orderBins [0, 1, 2, 3, 4, 5] s3 []
    let s4 := [(0 : Bin), 1, 2, 3, 4, 5].foldl (fun u b =>
      let sheets := (x.2.filter fun z => decide (z.1 = b)).map (·.2)
      if sheets = [] then u else Machine.post (.removeRequest .suspect b sheets none) u) y.1
    ((∃ r ∈ s4.stk.sheets, r.state = .stranded) → enterDispose s = enterRunout y.2 s4) ∧
    ((∀ r ∈ s4.stk.sheets, r.state ≠ .stranded) → enterDispose s = enterRebuild s4)) ∧
  ((∀ (s : State) (p : Sheet → Bool), removePass p s =
      ((s.stk.sheets.filter fun r => decide (r.state = .stranded) && p r).map (·.tag)).foldl
        (fun u t => removeStranded t u) s) ∧
    (∀ (s : State) (t : Tag) (r : Sheet), s.sheet? t = some r →
      let u := endSheet t .removed s
      (s.ogt.jobs[r.job].state = .cancelling → removeStranded t s = u) ∧
      (s.ogt.jobs[r.job].state ≠ .cancelling → removeStranded t s =
        ((u.stk.sheets.filter fun x => decide (x.state = .settling ∧ u.binOf x = s.binOf r ∧ r.seq < x.seq)).map
          (·.tag)).foldl (fun v x => markSuspect x v) u)) ∧
    (∀ (s : State) (t : Tag) (r : Sheet), s.sheet? t = some r →
      (r.state ≠ .settling → markSuspect t s = s) ∧
      (r.state = .settling → markSuspect t s = { s with
        stk := { s.stk with sheets := s.stk.sheets.map fun x => if x.tag = t then { x with suspect := true } else x }
        dlu := { s.dlu with bins := upd s.dlu.bins (s.binOf r) fun x => { x with timer := none } } }))) ∧
  ((∀ (s : State), removeSuspects [] s = (s, [])) ∧
    (∀ (s : State) (b : Bin) (st : Stage) (l : List (Bin × Stage)),
      ((s.staged b st).all (fun r => !r.suspect) = true → removeSuspects ((b, st) :: l) s = removeSuspects l s) ∧
      ∀ r, s.staged b st = some r → r.suspect = true →
        let x := removeSuspects l (removeSettling r.tag s)
        removeSuspects ((b, st) :: l) s = (x.1, (b, r.tag, r.seq) :: x.2)) ∧
    ∀ (s : State) (t : Tag) (r : Sheet), s.sheet? t = some r →
      let b := s.binOf r
      let u := endSheet t .removed s
      let timer := fun n : Option Nat =>
        { u with dlu := { u.dlu with bins := upd u.dlu.bins b fun x => { x with timer := n } } }
      (u.staged b .a = none → u.staged b .b = none → removeSettling t s = timer none) ∧
      ((u.staged b .a).isSome ∨ (u.staged b .b).isSome →
        (s.frozen b = true → u.frozen b = false → removeSettling t s = timer (some u.pds.timing.settleMs)) ∧
        (s.frozen b = false ∨ u.frozen b = true → removeSettling t s = u))) ∧
  ((∀ (s : State) (named : List Tag), orderBins [] s named = (s, named)) ∧
    (∀ (s : State) (named : List Tag) (b : Bin) (bs : List Bin) (rs : List Sheet),
      rs.Perm (s.stk.sheets.filter fun r =>
        decide (r.state = .stranded ∧ r.disposition = some .deliver ∧ s.binOf r = b)) →
      rs.Pairwise (fun x y => x.seq < y.seq) →
      orderBins (b :: bs) s named = orderBins bs (orderSheets b rs s named).1 (orderSheets b rs s named).2) ∧
    (∀ (s : State) (b : Bin) (named : List Tag), orderSheets b [] s named = (s, named)) ∧
    ∀ (s : State) (b : Bin) (named : List Tag) (r : Sheet) (rs : List Sheet),
      let past := ∃ i, r.next = .step i ∧ (s.routeOf r).divertIndex + 1 < i
      (¬OrderBlocked s b named r → orderSheets b (r :: rs) s named = orderSheets b rs s named) ∧
      (OrderBlocked s b named r → past → orderSheets b (r :: rs) s named = orderSheets b rs s (named ++ [r.tag])) ∧
      (OrderBlocked s b named r → ¬past →
        orderSheets b (r :: rs) s named = orderSheets b rs (setDisposition r.tag .purge s) named)) ∧
  (∀ (s : State) (t : Tag) (d : Disposition), setDisposition t d s = { s with
    stk := { s.stk with sheets := s.stk.sheets.map fun r =>
      if r.tag = t ∧ r.state = .stranded then { r with disposition := some d }
      else if r.tag = t ∧ r.state = .runout then { r with
        disposition := some d
        next := match r.next with
          | .step i => if d = .purge ∧ (s.routeOf r).divertIndex < i then .purgeExit else .step i
          | x => x }
      else r } }) ∧
  (∀ s : State, s.stk.path ≠ .halted → beginRunout s = s) ∧
  ∀ (s : State) (named : List Tag) (i : Incident), s.rcc.jam = some i → s.stk.path = .halted →
    let start := fun r : Sheet =>
      if r.state = .stranded then
        { r with
          state := .runout
          runoutStamp := some s.ckm.tc
          occupied := r.occupied.map fun e => { e with base := s.ckm.tc }
          next := if r.disposition = some .purge then purgeCourse (s.routeOf r) r.next else r.next
          outOfOrder := r.outOfOrder || named.contains r.tag }
      else if r.state = .runout ∧ named.contains r.tag then { r with outOfOrder := true } else r
    enterRunout named s = { s with
      rcc := { s.rcc with jam := some { i with phase := .runout, runoutDone := false } }
      stk := { s.stk with path := .runningOut, sheets := s.stk.sheets.map start }
      li := Link.placeRunout
        ((s.stk.sheets.filter fun r => decide (r.state = .stranded ∨ r.state = .runout)).map fun r =>
          (r.tag, if r.disposition = some .deliver then .bin (s.binOf r) else .purgeBin)) s.li }

/-! ## Orders and admission -/

/-- Tier 2. R131, R132, R31. An ORDER that is refused leaves the FIFO and posts ORDER REFUSED with the first check, or
the first item, that fails; nothing else changes. -/
def Obligations.OrderRefused : Prop :=
  ∀ (s : State) (f : Frame) (rest : List Frame), s.porst = false → s.li.fifo = f :: rest → f.kind = kindOrder →
    let o := orderBody f.body
    let job := s.ogt.jobs[o.job]
    let refused := fun (reason : OrderRefusal) (item : Option Nat) =>
      exec .order s = .next (post (.orderRefused reason o.jobId ⟨o.job, o.front⟩ item) (s.taken rest))
    (s.pds.mode = .setup → refused .mode none) ∧
    (s.pds.mode = .running →
      (job.state ≠ .opened ∨ job.id ≠ o.jobId → refused .job none) ∧
      (job.state = .opened → job.id = o.jobId →
        (∀ n : Fin 8, ¬OrderHolds s o n → (∀ m < n, OrderHolds s o m) → refused .invalid (some (n.val + 1))) ∧
        ((∀ n, OrderHolds s o n) → 64 ≤ s.ogt.orq.length ∨ 4294967295 ≤ s.ogt.seqCounter → refused .full none)))

/-- Tier 2. R133, R130, R96. An accepted ORDER takes the next sequence and joins the queue, its job's count rises, each
of its pages is given to the directory, and a compile-bin order moves the compile order set. -/
def Obligations.OrderAccepted : Prop :=
  (∀ (s : State) (f : Frame) (rest : List Frame), s.porst = false → s.li.fifo = f :: rest → f.kind = kindOrder →
    let o := orderBody f.body
    let rt := s.pds.routes[o.route]
    let compile := s.pds.bins[rt.bin.val] = ⟨true, .compile⟩
    let q := s.ogt.seqCounter
    let snap : Snapshot := ⟨o.route, o.media, ⟨o.job, o.front⟩, if rt.duplex then o.backKey else none,
      if compile then some (o.set, o.setEnd) else none⟩
    s.pds.mode = .running → s.ogt.jobs[o.job].state = .opened → s.ogt.jobs[o.job].id = o.jobId →
    (∀ n, OrderHolds s o n) → s.ogt.orq.length < 64 → q < 4294967295 →
    exec .order s = .next (watchGate s { s.taken rest with
      pgd := (snap.keys.foldl (fun s k => claimLine q k s) s).pgd
      ogt := { s.ogt with
        seqCounter := q + 1
        orq := s.ogt.orq ++ [⟨q, o.job, snap, false, none, 0⟩]
        jobs := upd s.ogt.jobs o.job fun b => { b with orq := b.orq + 1 }
        compileSet := if compile then (if o.setEnd then none else some ⟨o.job, o.set⟩) else s.ogt.compileSet } })) ∧
  ∀ (q : Seq) (k : PageKey) (s : State),
    (s.pgd.lookup k = none → claimLine q k s = s) ∧
    ∀ i l, s.pgd.lookup k = some (i, l) →
      (l.state = .filling ∨ l.state = .ready → l.owner = none →
        claimLine q k s = { s with pgd := s.pgd.putWay i { l with owner := some q } }) ∧
      (l.state = .released → claimLine q k s = { s with
        pgd := s.pgd.putWay i { l with state := .locked, cls := effectiveClass s k, owner := some q } }) ∧
      (l.state = .locked ∨ l.state = .setheld ∨ l.owner.isSome ∧ l.state ≠ .released → claimLine q k s = s)

/-- Tier 2. R136, R137, R138, R134, R51. The gate head is admitted exactly when the eight conditions hold: a record
opens in the lowest free slot under the first free tag, a FEED is placed, the interlock names the tag and the entry
leaves its list. An admission that is withdrawn takes the FEED from its place, drops the record without an ending,
returns the entry to its list (a refilled Order Queue too: log 32; its origin: log 13) and clears the interlock. The
record is dropped in whatever state it is, and where it has ended the FEED goes alone (log 35). -/
def Obligations.AdmitGateHead : Prop :=
  ((∀ s : State, s.li.feedPlace = none → withdrawAdmission s = s) ∧
    (∀ (s : State) (f : Feed), s.li.feedPlace = some f → s.sheet? f.tag = none →
      withdrawAdmission s = { s with
        li := { s.li with feedPlace := none }, ogt := { s.ogt with interlock := none } }) ∧
    ∀ (s : State) (f : Feed) (r : Sheet), s.li.feedPlace = some f → s.sheet? f.tag = some r →
      let u := { s with
        li := { s.li with feedPlace := none }
        stk := { s.stk with sheets := s.stk.sheets.filter fun x => decide (x.tag ≠ f.tag) } }
      (r.reissued = false → withdrawAdmission s = { u with
        ogt := { s.ogt with
          orq := ⟨r.seq, r.job, r.snap, false, none, r.retries⟩ :: s.ogt.orq
          jobs := upd s.ogt.jobs r.job fun b => { b with stt := b.stt - 1, orq := b.orq + 1 }
          interlock := none } }) ∧
      (r.reissued = true → ∃ l, withdrawAdmission s = { u with
        ogt := { s.ogt with
          ril := l
          jobs := upd s.ogt.jobs r.job fun b => { b with stt := b.stt - 1, ril := b.ril + 1 }
          interlock := none } } ∧
        ∀ before after, s.ogt.ril = before ++ after → (∀ x ∈ before, x.seq ≤ r.seq) →
          (∀ x xs, after = x :: xs → r.seq < x.seq) →
          l = before ++ ⟨r.seq, r.job, r.snap, false, s.ogt.admitOrigin, r.retries⟩ :: after)) ∧
  ∀ s : State, s.porst = false →
    (s.ogt.head = none → exec .admitGateHead s = .next s) ∧
    ∀ e : Entry, s.ogt.head = some e →
      let rt := s.pds.routes[e.snap.route]
      let ready :=
        (s.pds.mode = .running ∧ s.stk.path = .moving) ∧ (s.rcc.interlock = none ∧ s.rcc.jam = none) ∧
        s.stk.sheets.length < 24 ∧ s.ogt.interlock = none ∧ s.li.feedPlace = none ∧
        (s.ogt.trays[rt.tray].held = false ∧ s.ogt.trays[rt.tray].empty = false) ∧ s.dlu.bins[rt.bin].full = false ∧
        ∀ k ∈ e.snap.keys, s.pgd.stateOf k = some .ready ∨ s.pgd.stateOf k = some .locked
      (¬ready → exec .admitGateHead s = .next s) ∧
      (ready → ∀ (slot : Fin 24) (n : Nat), (∀ r ∈ s.stk.sheets, r.slot ≠ slot) →
        (∀ k < slot, ∃ r ∈ s.stk.sheets, r.slot = k) →
        let tag : Nat → Tag := fun j => s.ogt.tagCounter + BitVec.ofNat 16 j
        n < 24 → (∀ r ∈ s.stk.sheets, r.tag ≠ tag n) → (∀ j < n, ∃ r ∈ s.stk.sheets, r.tag = tag j) →
        let sheet : Sheet := ⟨slot, tag n, e.seq, e.job, e.snap, s.ckm.tc, .admitted, .step 0, [], none, .none, none,
          none, false, false, !s.ogt.ril.isEmpty, e.retries⟩
        exec .admitGateHead s = .next (watchGate s { s with
          stk := { s.stk with sheets := s.stk.sheets ++ [sheet] }
          li := Link.placeFeed ⟨tag n, rt.tray, e.snap.route, e.snap.media, rt.duplex⟩ s.li
          ogt := { s.ogt with
            tagCounter := tag n + 1
            interlock := some (tag n)
            admitOrigin := e.origin
            ril := s.ogt.ril.tail
            orq := if s.ogt.ril.isEmpty then s.ogt.orq.tail else s.ogt.orq
            jobs := upd s.ogt.jobs e.job fun b =>
              if s.ogt.ril.isEmpty then { b with orq := b.orq - 1, stt := b.stt + 1 }
              else { b with ril := b.ril - 1, stt := b.stt + 1 } } }))

/-- Tier 2. R135, R140, R141. The watch after every event: nothing, while all that R135 names is as before (the head, the
slots held, the interlock, trays, bins, INTERLOCK and JAM, the Path State, the FEED place, the head's lines); else the
former heads lose their marks and in RUNNING the head's tray is tested and its missing pages are asked for once (log 6:
the judgement stands in the step of the event, the admission in its own row). -/
def Obligations.GateWatch : Prop :=
  (∀ s t : State, gateView s = gateView t ↔
    (s.ogt.head.map (·.seq) = t.ogt.head.map (·.seq) ∧ s.stk.sheets.map (·.slot) = t.stk.sheets.map (·.slot) ∧
      s.ogt.interlock = t.ogt.interlock) ∧
    (∀ n : Tray, s.ogt.trays[n].empty = t.ogt.trays[n].empty ∧ s.ogt.trays[n].held = t.ogt.trays[n].held) ∧
    (∀ b : Bin, s.dlu.bins[b].full = t.dlu.bins[b].full) ∧
    ((s.rcc.interlock = none ↔ t.rcc.interlock = none) ∧ (s.rcc.jam = none ↔ t.rcc.jam = none)) ∧
    (s.stk.path = t.stk.path ∧ (s.li.feedPlace = none ↔ t.li.feedPlace = none)) ∧
    ((s.ogt.head.map fun e => e.snap.keys.map s.pgd.stateOf).getD [] =
      (t.ogt.head.map fun e => e.snap.keys.map t.pgd.stateOf).getD [])) ∧
  (∀ s t : State, gateView s = gateView t → watchGate s t = t) ∧
  (∀ s t : State, gateView s ≠ gateView t →
    let unmark := fun e : Entry => if some e.seq = t.ogt.head.map (·.seq) then e else { e with resend := false }
    let u := { t with ogt := { t.ogt with orq := t.ogt.orq.map unmark, ril := t.ogt.ril.map unmark } }
    (t.pds.mode = .setup → watchGate s t = u) ∧ (t.pds.mode = .running → watchGate s t = judgeHead u)) ∧
  (∀ s : State, s.ogt.head = none → judgeHead s = s) ∧
  ∀ (s : State) (e : Entry), s.ogt.head = some e → s.pds.mode = .running →
    let n := s.pds.routes[e.snap.route].tray
    let tested :=
      if s.ogt.trays[n].empty = true ∧ s.ogt.trays[n].supplyReported = false then
        { raiseSupply .trayEmpty (.tray n) s with
          ogt := { s.ogt with trays := upd s.ogt.trays n fun f => { f with supplyReported := true } } }
      else s
    let gone := e.snap.keys.filter fun k => decide (s.pgd.stateOf k = none ∨ s.pgd.stateOf k = some .released)
    (gone = [] ∨ e.resend = true → judgeHead s = tested) ∧
    (gone ≠ [] → e.resend = false → ∀ u,
      u = post (.resendRequest e.seq s.ogt.jobs[e.job].id e.job (!s.ogt.ril.isEmpty) gone) tested →
      (s.ogt.ril = [] → judgeHead s = { u with ogt := { u.ogt with orq := { e with resend := true } :: s.ogt.orq.tail } }) ∧
      (s.ogt.ril ≠ [] → judgeHead s = { u with ogt := { u.ogt with ril := { e with resend := true } :: s.ogt.ril.tail } }))

/-! ## Capture and replay -/

/-- Tier 2. R117, R118, R32, R125. A BAND is taken when the take place is empty: discarded MODE in SETUP, held while the
write place holds a band, else placed, and a placed band asks for the port. -/
def Obligations.BandTaken : Prop :=
  ∀ (s : State) (f : Frame) (rest : List Frame), s.porst = false → s.li.fifo = f :: rest → f.kind = kindBand →
    let b := bandBody f.body
    (s.cre.take ≠ none → exec .band s = .next s) ∧
    (s.cre.take = none →
      (s.pds.mode = .setup → exec .band s = .next (post (.pageDiscard b.key b.index .mode) (s.taken rest))) ∧
      (s.pds.mode = .running → s.cre.write.isSome →
        exec .band s = .next { s.taken rest with cre := { s.cre with take := some b } }) ∧
      (s.pds.mode = .running → s.cre.write = none →
        (∀ t, place b.key b.index b.final b.data.length (s.taken rest) = (t, none) →
          exec .band s = .next (watchGate s t)) ∧
        (∀ t n, place b.key b.index b.final b.data.length (s.taken rest) = (t, some n) →
          exec .band s = .next (watchGate s { t with
            cre :=
              if s.cre.port = none then { s.cre with
                write := some (b, n), port := some .capture, lastHolder := some .capture
                run := if s.cre.lastHolder = some .capture then s.cre.run else 0 }
              else { s.cre with write := some (b, n), captureWaiting := true } }))))

/-- Tier 2. R99, R100, R102, R104, R88, R108, R135. The placement of a band by its page's line: the latch, the table of
R99, the way that is taken (RELEASED, SETHELD or displaced: its chain is freed, and the set of a SETHELD line loses its
protection), the block that is taken or cannot be taken, and the discards. The gate head is judged at each change of a
line on the way (log 6). -/
def Obligations.Placement : Prop :=
  ∀ (s : State) (k : PageKey) (index : Nat) (final : Bool) (len : Nat),
    let x := place k index final len s
    let c := { s with pgd := { s.pgd with latch := none } }
    let duplicate := { post (.pageDiscard k index .duplicate) c with pgd := { c.pgd with latch := some k } }
    let discarded := fun (r : DiscardReason) (d : Directory) =>
      let t := { post (.pageDiscard k index r) c with pgd := { d with latch := some k } }
      if (c.ogt.head.map fun e => decide (k ∈ e.snap.keys)) = some true then { t with ogt := t.ogt.clearHeadMark } else t
    let fresh : Line := ⟨.filling, k, s.ogt.ownerFor k, [], 0, effectiveClass s k, none, false, false⟩
    (s.pgd.latch = some k → 0 < index → x = (s, none)) ∧
    (¬(s.pgd.latch = some k ∧ 0 < index) →
      (s.pgd.lookup k = none → index ≠ 0 → x = (discarded .gap c.pgd, none)) ∧
      (s.pgd.lookup k = none → index = 0 → victim s k = none → x = (discarded .retentionFull c.pgd, none)) ∧
      (∀ i, s.pgd.lookup k = none → index = 0 → victim s k = some i → x = takeBlock k i index len (fillWay k i c)) ∧
      ∀ i l, s.pgd.lookup k = some (i, l) →
        (l.state = .released → index ≠ 0 → x = (discarded .gap c.pgd, none)) ∧
        (l.state = .released → index = 0 → x = takeBlock k i index len (fillWay k i c)) ∧
        (l.state = .ready ∨ l.state = .locked ∨ l.state = .setheld ∨ l.state = .filling ∧ index = 0 →
          x = (duplicate, none)) ∧
        (l.state = .filling → index ≠ 0 → index = l.chain.length → ¬(index = 127 ∧ final = false) →
          x = takeBlock k i index len c) ∧
        (l.state = .filling → index ≠ 0 → index ≠ l.chain.length ∨ index = 127 ∧ final = false →
          x = (discarded .gap (c.pgd.dropWay i), none))) ∧
    (∀ i, Cells.find s.pgd.lines i = none → fillWay k i s = watchGate s { s with
      pgd := ({ s.pgd with lines := Cells.put s.pgd.lines i fresh }).touch i }) ∧
    (∀ i l, Cells.find s.pgd.lines i = some l →
      let t := watchGate s { s with
        pgd := ({ s.pgd with
          lines := Cells.put (Cells.erase s.pgd.lines i) i fresh
          free := s.pgd.free ++ l.chain }).touch i }
      (l.setTag = none → fillWay k i s = t) ∧
      (∀ x, l.setTag = some x → fillWay k i s = loseProtection x t)) ∧
    (∀ x : SetTag,
      (s.dlu.openSet = none → loseProtection x s = s) ∧
      ∀ o, s.dlu.openSet = some o →
        (o.guarded = none ∨ x ≠ ⟨o.job, o.set⟩ → loseProtection x s = s) ∧
        (o.guarded.isSome → x = ⟨o.job, o.set⟩ → loseProtection x s = { s with
          dlu := { s.dlu with openSet := some { o with guarded := none } }
          pgd := { s.pgd with lines := s.pgd.lines.map fun p => (p.1,
            if p.2.state = .setheld ∧ p.2.setTag = some x then
              { p.2 with state := .released, cls := effectiveClass s p.2.key, owner := none, setTag := none }
            else p.2) } })) ∧
    ∀ i l, Cells.find s.pgd.lines i = some l →
      (∀ b free, s.pgd.free = b :: free → takeBlock k i index len s = ({ s with
        pgd := { s.pgd with
          free := free
          lines := Cells.put s.pgd.lines i { l with chain := l.chain ++ [b], bytes := l.bytes + len } } }, some b)) ∧
      (s.pgd.free = [] → (¬Wanted s k ∨ ∀ p ∈ s.pgd.lines, ¬CanDisplace s p.2) →
        let t := { post (.pageDiscard k index .retentionFull) s with pgd := { s.pgd with latch := some k } }
        let u := if (s.ogt.head.map fun e => decide (k ∈ e.snap.keys)) = some true then
          { t with ogt := t.ogt.clearHeadMark } else t
        takeBlock k i index len s = (watchGate u { u with pgd := u.pgd.dropWay i }, none)) ∧
      (s.pgd.free = [] → Wanted s k → l.state = .filling → (∃ p ∈ s.pgd.lines, CanDisplace s p.2) →
        DirectoryOk s.pgd → ∃ p, RanksFirst s (fun _ => True) p ∧ ∀ b free, p.2.chain = b :: free →
          takeBlock k i index len s = ({ watchGate s { s with pgd := s.pgd.dropWay p.1 } with
            pgd := { s.pgd with
              free := free
              lines := Cells.put (Cells.erase s.pgd.lines p.1) i
                { l with chain := l.chain ++ [b], bytes := l.bytes + len } } }, some b))

/-- Tier 2. R100, R101, R95. Victim choice for a first band of an absent page. Between two SETHELD ways of one owner a
free value picks (log 14). The way that a set's replacement bits point to, and how a touch of a way sets them. -/
def Obligations.VictimChoice : Prop :=
  (∀ p : Plru,
    (p.root = false → p.pointed = if p.lower then 1 else 0) ∧ (p.root = true → p.pointed = if p.upper then 3 else 2) ∧
    p.touch 0 = { p with root := true, lower := true } ∧ p.touch 1 = { p with root := true, lower := false } ∧
    p.touch 2 = { p with root := false, upper := true } ∧ p.touch 3 = { p with root := false, upper := false }) ∧
  (∀ (d : Directory) (n : Fin 64) (w : Fin 4), d.bitsOf n.val = d.plru[n] ∧
    d.touch (4 * n.val + w.val) = { d with plru := upd d.plru n (Plru.touch w.val) }) ∧
  ∀ (s : State) (k : PageKey), DirectoryOk s.pgd →
    let mine := fun i : Nat => i / 4 = setOf k
    let pointed := 4 * setOf k + (s.pgd.bitsOf (setOf k)).pointed
    (∀ i, mine i → s.pgd.stateAt i = none → (∀ j < i, mine j → s.pgd.stateAt j ≠ none) → victim s k = some i) ∧
    ((∀ i, mine i → s.pgd.stateAt i ≠ none) →
      (s.pgd.stateAt pointed = some .released → victim s k = some pointed) ∧
      (s.pgd.stateAt pointed ≠ some .released → ∀ i, mine i → s.pgd.stateAt i = some .released →
        (∀ j < i, mine j → s.pgd.stateAt j ≠ some .released) → victim s k = some i) ∧
      ((∀ i, mine i → s.pgd.stateAt i ≠ some .released) →
        ((∃ i, mine i ∧ s.pgd.stateAt i = some .setheld) → ∃ i, victim s k = some i ∧ mine i ∧
          s.pgd.stateAt i = some .setheld ∧
          ∀ j, mine j → s.pgd.stateAt j = some .setheld → s.pgd.ownerAt i ≤ s.pgd.ownerAt j) ∧
        ((∀ i, mine i → s.pgd.stateAt i ≠ some .setheld) →
          (Wanted s k → (∃ p ∈ s.pgd.lines, mine p.1 ∧ CanDisplace s p.2) →
            ∃ p, RanksFirst s (fun p => mine p.1) p ∧ victim s k = some p.1) ∧
          (¬Wanted s k ∨ (∀ p ∈ s.pgd.lines, mine p.1 → ¬CanDisplace s p.2) → victim s k = none))))

/-- Tier 2. R118, R119, R103, R126, R135, R140. A write transfer ends: the band's bytes and length are stored and no
other byte of the DRAM changes, a final band makes its FILLING line READY and the gate judges that (log 6), the waiting
band is presented, and the port is judged; a mark that a discard of the waiting band clears waits for the next
judgement. No BAND leaves the FIFO (log 30). Without a write under way nothing changes (log 2). -/
def Obligations.WriteTransferEnd : Prop :=
  (∀ s : State, s.cre.port ≠ some .capture ∨ s.cre.write = none → exec .writeTransferEnd s = .next s) ∧
  ∀ (s : State) (b : Band) (n : Nat), s.porst = false → s.cre.port = some .capture → s.cre.write = some (b, n) →
    let c := { s.cre with
      dram := Memory.writeRun s.cre.dram (n * 32768) b.data
      lengths := Cells.put s.cre.lengths n b.data.length
      write := none }
    let d := match s.pgd.lookup b.key with
      | some (i, l) =>
        if l.state = .filling ∧ b.final = true then
          s.pgd.putWay i { l with state := .ready, cls := effectiveClass s b.key }
        else s.pgd
      | none => s.pgd
    let t := watchGate s { s with pgd := d, cre := c }
    (s.cre.take = none → exec .writeTransferEnd s = .next { t with
      cre := Capture.boundary s.pds.timing.captureHold .capture false c }) ∧
    (∀ w, s.cre.take = some w → ∀ v, v = { t with cre := { c with take := none } } →
      (s.pds.mode = .setup → exec .writeTransferEnd s = .next
        { post (.pageDiscard w.key w.index .mode) v with
          cre := Capture.boundary s.pds.timing.captureHold .capture false v.cre }) ∧
      (s.pds.mode = .running → ∀ u m, place w.key w.index w.final w.data.length v = (u, m) →
        exec .writeTransferEnd s = .next (watchGate v { u with
          cre := match m with
            | some m => Capture.boundary s.pds.timing.captureHold .capture true { v.cre with write := some (w, m) }
            | none => Capture.boundary s.pds.timing.captureHold .capture false v.cre }))) ∧
    (Memory.wf s.cre.dram →
      (∀ a, a < n * 32768 ∨ n * 32768 + b.data.length ≤ a → Memory.read c.dram a = Memory.read s.cre.dram a) ∧
      ∀ i v, b.data[i]? = some v → Memory.read c.dram (n * 32768 + i) = v)

/-- Tier 2. R67, R120, R121, R105, R33, R57. A CALL: ignored in SETUP, HALTING and HALTED; JAM CALL FAULT when its check
fails, when a call already waits, or when the side has no page; else the replay starts, or the call waits for the
reader. -/
def Obligations.Call : Prop :=
  ∀ (s : State) (t : Tag) (side : Side), s.porst = false →
    (s.pds.mode = .setup ∨ s.stk.path = .halting ∨ s.stk.path = .halted → exec (.call t side) s = .next s) ∧
    (s.pds.mode = .running → s.stk.path = .moving ∨ s.stk.path = .runningOut →
      let fault := exec (.call t side) s = .next (watchGate s (raiseJam .callFault none (some t) none s))
      let held := (∃ r l n, s.cre.reader = .streaming r l n ∧ r.tag = t) ∨ ∃ r, s.cre.pendingCall = some r ∧ r.tag = t
      (s.sheet? t = none → fault) ∧
      ∀ r, s.sheet? t = some r →
        let passes := (r.state = .admitted ∨ r.state = .moving) ∧
          (side = .front ∧ r.sides = .none ∨ side = .back ∧ r.sides = .front ∧ (s.routeOf r).duplex = true) ∧ ¬held
        (¬passes → fault) ∧
        (passes →
          let q : CallReq := ⟨t, side, r.snap.keyOf side⟩
          (s.cre.reader ≠ .idle → s.cre.pendingCall = none →
            exec (.call t side) s = .next { s with cre := { s.cre with pendingCall := some q } }) ∧
          (s.cre.reader ≠ .idle → s.cre.pendingCall ≠ none → fault) ∧
          (s.cre.reader = .idle → s.cre.pendingCall = none →
            (s.pgd.stateOf q.key ≠ some .ready → s.pgd.stateOf q.key ≠ some .locked → fault) ∧
            ∀ i l, s.pgd.lookup q.key = some (i, l) → l.state = .ready ∨ l.state = .locked →
              exec (.call t side) s = .next (watchGate s { s with
                pgd := (s.pgd.putWay i { l with pin := true, invalidateOnUnpin := false }).touch i
                cre := Capture.request .replay { s.cre with reader := .streaming q l.chain 0 } }))))

/-- Tier 2. R122, R124. A read transfer ends: the band goes to the BANDOUT place, or stays in the buffer while the place
is full; a drained transfer leaves the reader IDLE. BANDOUT_GIVEN gives the buffered band when the place empties. A
command whose event has not come about changes nothing (log 2). -/
def Obligations.ReadTransferEnd : Prop :=
  ∀ s : State, s.porst = false →
    (s.cre.port ≠ some .replay → exec .readTransferEnd s = .next s) ∧
    (∀ c chain n, s.cre.reader = .streaming c chain n →
      let block := chain.getD n 0
      let band : ReadBand := ⟨n, decide (n + 1 = chain.length),
        Memory.readRun s.cre.dram (block * 32768) ((Cells.find s.cre.lengths block).getD 0)⟩
      let read := { s.cre with reader := .streaming c chain (n + 1) }
      (s.cre.port = some .replay → s.li.bandoutPlace = none → exec .readTransferEnd s = .next (watchGate s { s with
        li := Link.placeBandout ⟨c.tag, c.side, n, band.final, band.data⟩ s.li
        cre := Capture.boundary s.pds.timing.replayHold .replay (decide (n + 1 < chain.length))
          { read with buffer := none } })) ∧
      (s.cre.port = some .replay → s.li.bandoutPlace ≠ none → exec .readTransferEnd s = .next { s with
        cre := Capture.boundary s.pds.timing.replayHold .replay false { read with buffer := some band } }) ∧
      (∀ b, s.cre.buffer = some b → s.li.bandoutPlace = none → exec .bandoutGiven s = .next (watchGate s { s with
        li := Link.placeBandout ⟨c.tag, c.side, b.index, b.final, b.data⟩ s.li
        cre := if n < chain.length then Capture.request .replay { s.cre with buffer := none }
          else { s.cre with buffer := none } }))) ∧
    (s.cre.reader = .draining → s.cre.port = some .replay →
      let t := { s with
        cre := { Capture.boundary s.pds.timing.replayHold .replay false s.cre with reader := .idle } }
      (s.cre.pendingCall = none → exec .readTransferEnd s = .next t) ∧
      ∀ q, s.cre.pendingCall = some q → exec .readTransferEnd s =
        .next (watchGate s (tryReplay q { t with cre := { t.cre with pendingCall := none } }))) ∧
    (s.cre.buffer = none ∨ s.li.bandoutPlace ≠ none → exec .bandoutGiven s = .next s)

/-- Tier 2. R12, R123, R106, R68, R135. A BANDOUT has been sent; when it carried the final band of the current replay,
the pin goes, the line follows its class and the gate judges that change (log 6), the sheet's side counts as imaged and
the reader is IDLE; then a pending call starts, and after it the E-port goes on (log 31). A line that stays LOCKED keeps
its recorded class (log 20). -/
def Obligations.BandoutSent : Prop :=
  (∀ (s : State) (b : BandOut), s.porst = false → s.li.eTx = some (.bandout b) →
    let sent := fun t : State => { t with li := t.li.startE }
    let t := { s with li := { s.li with eTx := none } }
    (b.final = false → exec .bandoutSent s = .next (watchGate s (sent t))) ∧
    (∀ c chain, s.cre.reader = .streaming c chain chain.length → s.cre.buffer = none → s.li.bandoutPlace = none →
      b.final = true → b.tag = c.tag → b.side = c.side →
      let u := { watchGate t (imagingDoneLine c.key t) with
        stk := { s.stk with
          sheets := s.stk.sheets.map fun r =>
            if r.tag = c.tag ∧ ∃ x, s.sheet? c.tag = some x ∧
                (c.side = .front ∧ x.sides = .none ∨ c.side = .back ∧ x.sides = .front ∧ (s.routeOf x).duplex = true)
            then { r with sides := if c.side = .front then .front else .both } else r }
        cre := { s.cre with reader := .idle } }
      (s.cre.pendingCall = none → exec .bandoutSent s = .next (watchGate s (sent u))) ∧
      ∀ q, s.cre.pendingCall = some q → exec .bandoutSent s =
        .next (watchGate s (sent (tryReplay q { u with cre := { u.cre with pendingCall := none } })))))
  ∧ ∀ (s : State) (k : PageKey),
    (s.pgd.lookup k = none → imagingDoneLine k s = s) ∧
    ∀ i l, s.pgd.lookup k = some (i, l) →
      let free := { l with pin := false, invalidateOnUnpin := false }
      (l.invalidateOnUnpin = true → imagingDoneLine k s = { s with pgd := s.pgd.dropWay i }) ∧
      (l.invalidateOnUnpin = false → l.state = .ready ∨ l.state = .locked → effectiveClass s k ≠ .none →
        (imagingDoneLine k s = { s with pgd := s.pgd.putWay i { free with
          state := .locked, cls := if l.state = .locked then l.cls else effectiveClass s k } })) ∧
      (l.invalidateOnUnpin = false → l.state = .ready ∨ l.state = .locked → effectiveClass s k = .none →
        imagingDoneLine k s = { s with pgd := s.pgd.putWay i { free with
          state := .released, cls := .none, owner := none, setTag := none } })

/-- Tier 2. R125, R126. The port: a request, and a boundary by who waits and who continues. -/
def Obligations.PortArbiter : Prop :=
  ∀ (c : Capture) (h : Holder) (limit : Nat),
    (c.port = none → Capture.request h c = { c with
      port := some h, lastHolder := some h, run := if c.lastHolder = some h then c.run else 0 }) ∧
    (c.port.isSome → Capture.request h c = c.setWaiting h true) ∧
    (c.waiting h.other = false → Capture.boundary limit h true c = { c with
      port := some h, lastHolder := some h, run := 0 }) ∧
    (c.waiting h.other = false → Capture.boundary limit h false c = { c with port := none }) ∧
    (c.waiting h.other = true → c.run + 1 < limit → Capture.boundary limit h true c = { c with
      port := some h, lastHolder := some h, run := c.run + 1 }) ∧
    (c.waiting h.other = true → limit ≤ c.run + 1 → Capture.boundary limit h true c =
      { (c.setWaiting h.other false).setWaiting h true with
        port := some h.other, lastHolder := some h.other, run := 0 }) ∧
    (c.waiting h.other = true → Capture.boundary limit h false c =
      { c.setWaiting h.other false with port := some h.other, lastHolder := some h.other, run := 0 })

/-! ## Engine status -/

/-- Tier 2. R9, R33, R70, R84, R141, R154, R159. What each status changes before its copy is passed up: a tray's empty
flag, a bin's state and its faults, the two engine faults; an unread status changes nothing; and the copy joins the
upward queue or is counted OVERRUN. At a BIN FULL the gate judges the bin's change before what the part does with it
(R135; log 6). -/
def Obligations.EngineStatus : Prop :=
  (∀ (s : State) (t : Tray) (rest : List Byte), s.porst = false →
    let up := fun (kind : Byte) (u : State) =>
      { u with li := Link.passUp (Frame.make kindEngstat (kind :: indexByte t :: rest)) u.li }
    let flags := fun v : Bool => { s with ogt := { s.ogt with trays := upd s.ogt.trays t fun f =>
      { f with empty := v, supplyReported := if v then f.supplyReported else false } } }
    (s.ogt.trays[t].empty = true → exec (.trayEmpty t rest) s = .next (up 1 s)) ∧
    (s.ogt.trays[t].empty = false →
      exec (.trayEmpty t rest) s = .next (watchGate s (up 1 (supplyReport (flags true)))) ∧
      exec (.trayFilled t rest) s = .next (up 2 (flags false))) ∧
    (s.ogt.trays[t].empty = true →
      exec (.trayFilled t rest) s = .next (watchGate s (up 2 (supplyReport (flags false)))))) ∧
  (∀ (s : State) (b : Bin) (rest : List Byte), s.porst = false →
    let up := fun (kind : Byte) (u : State) =>
      { u with li := Link.passUp (Frame.make kindEngstat (kind :: indexByte b :: rest)) u.li }
    let bin := fun v : Bool => { s with dlu := { s.dlu with bins := upd s.dlu.bins b fun x => { x with full := v } } }
    let told := if s.dlu.bins[b].full = true then s else watchGate s (supplyReport (bin true))
    (s.dlu.bins[b].full = false → exec (.binCleared b rest) s = .next (up 4 s)) ∧
    (s.dlu.bins[b].full = true →
      exec (.binCleared b rest) s = .next (watchGate s (up 4 (supplyReport (bin false))))) ∧
    (s.pds.mode = .setup → exec (.binFull b rest) s = .next (watchGate s (up 3 told))) ∧
    (s.pds.mode = .running → told.staged b .a = none → told.staged b .b = none →
      exec (.binFull b rest) s = .next (watchGate s (up 3 (raiseSupply .binFull (.bin b) told)))) ∧
    (s.pds.mode = .running → (told.staged b .a).isSome ∨ (told.staged b .b).isSome →
      exec (.binFull b rest) s = .next (watchGate s (up 3 (raiseSupply .binFull (.bin b)
        (raiseJam .sequence none none (some (.bin b)) (markStage b .b (markStage b .a told)))))))) ∧
  (∀ (s : State) (b : Bin) (code rest body : List Byte), s.porst = false →
    let up := fun (bytes : List Byte) (u : State) => { u with li := Link.passUp (Frame.make kindEngstat bytes) u.li }
    exec (.engineFault code) s =
      .next (watchGate s (up (7 :: code) (raiseJam .engine none none (some (.faultCode code)) s))) ∧
    (compileBin s = some b → exec (.compileFault b rest) s =
      .next (watchGate s (up (6 :: indexByte b :: rest) (raiseJam .compile none none (some (.bin b)) s)))) ∧
    (compileBin s ≠ some b → exec (.compileFault b rest) s = .next (up (6 :: indexByte b :: rest) s)) ∧
    (unread s body = true → exec (.engstatUnread body) s = .next (up body s))) ∧
  (∀ s : State, supplyReport s =
    match s.rcc.supply with
    | some i =>
      if i.status = .active ∧ i.phase = .hold ∧ ∀ x ∈ i.hold,
          (∀ t, x = .tray t → s.ogt.trays[t].empty = false) ∧ (∀ b, x = .bin b → s.dlu.bins[b].full = false)
      then close .supply s else s
    | none => s) ∧
  ∀ (l : Link) (f : Frame),
    (l.upward.length < 8 → l.uTx.isSome → Link.passUp f l = { l with upward := l.upward ++ [f] }) ∧
    (l.uTx = none → l.reply = none → l.notices = [] → l.upward = [] → Link.passUp f l =
      { l with uTx := some (.engstat f) }) ∧
    (8 ≤ l.upward.length → Link.passUp f l = Link.post (.linkDiscard .overrun .e f.kind (raise16 l.overrunCount))
      { l with overrunCount := raise16 l.overrunCount })

/-- Tier 2. R89, R90, R91, R108, R109, R134, R145, R135. SET EJECTED of the open set's bin: its sequences are delivered, its
SETHELD lines become RELEASED, the bin's last delivered sequence is the set's last, and the Open Set Record is empty. Of
another bin: nothing but the copy. A set purge empties the compile bin's queue, stage B then stage A, and then: a
protected set is reissued snapshot by snapshot (for a CANCELLING job too: log 29; with retry count 0: log 22), its
SETHELD lines are LOCKED again and the bin's order rolls back; an unprotected set is counted as removed, its SETHELD
lines are RELEASED and SET LOST is posted. In a set purge the gate judges its head after each snapshot and after the
lines (log 6). -/
def Obligations.SetEjected : Prop :=
  (∀ (s : State) (b : Bin) (rest : List Byte), s.porst = false →
    let up := fun u : State =>
      { u with li := Link.passUp (Frame.make kindEngstat (5 :: indexByte b :: rest)) u.li }
    (s.dlu.openSet = none → exec (.setEjected b rest) s = .next (up s)) ∧
    ∀ o, s.dlu.openSet = some o →
      (o.bin ≠ b → exec (.setEjected b rest) s = .next (up s)) ∧
      (o.bin = b →
        let counted := { s with ogt := { s.ogt with jobs := upd s.ogt.jobs o.job fun j =>
          { j with set := j.set - o.count, delivered := j.delivered + o.count } } }
        let done := checkDone o.job counted
        exec (.setEjected b rest) s = .next (watchGate s (up { done with
          pgd := { s.pgd with lines := s.pgd.lines.map fun p => (p.1,
            if p.2.state = .setheld ∧ p.2.setTag = some ⟨o.job, o.set⟩ then
              { p.2 with state := .released, cls := effectiveClass done p.2.key, owner := none, setTag := none }
            else p.2) }
          dlu := ⟨upd s.dlu.bins b fun x => { x with lastDelivered := o.last }, none⟩ })))) ∧
  ((∀ s : State, compileBin s = none → purgeQueue s = (s, [])) ∧
    (∀ (s : State) (b : Bin), compileBin s = some b →
      let x := purgeStage b .b s
      let y := purgeStage b .a x.1
      purgeQueue s = (y.1, x.2 ++ y.2)) ∧
    ∀ (s : State) (b : Bin) (st : Stage),
      (s.staged b st = none → purgeStage b st s = (s, [])) ∧
      ∀ r, s.staged b st = some r → purgeStage b st s = (removeSettling r.tag s, [(r.tag, r.seq)])) ∧
  (∀ s : State, s.dlu.openSet = none → purgeSet s = s) ∧
  (∀ (s : State) (o : OpenSet) (l : List Protected), s.dlu.openSet = some o → o.guarded = some l →
    let entered := l.foldl (fun u p => watchGate u { u with
      ogt := { u.ogt with
        ril := insertEntry ⟨p.seq, p.job, p.snap, false, some .set, 0⟩ u.ogt.ril
        jobs := upd u.ogt.jobs p.job fun b => { b with set := b.set - 1, ril := b.ril + 1 } } }) s
    let locked := watchGate entered { entered with
      pgd := { s.pgd with lines := s.pgd.lines.map fun p => (p.1,
        if p.2.state = .setheld ∧ p.2.setTag = some ⟨o.job, o.set⟩ then
          { p.2 with state := .locked, cls := effectiveClass entered p.2.key, setTag := none }
        else p.2) } }
    purgeSet s = { locked with dlu := ⟨upd s.dlu.bins o.bin fun x => { x with lastDelivered := o.before }, none⟩ }) ∧
  (∀ (s : State) (o : OpenSet), s.dlu.openSet = some o → o.guarded = none →
    let counted := checkDone o.job { s with ogt := { s.ogt with jobs := upd s.ogt.jobs o.job fun j =>
      { j with set := j.set - o.count, removed := j.removed + o.count } } }
    let freed := watchGate counted { counted with
      pgd := { s.pgd with lines := s.pgd.lines.map fun p => (p.1,
        if p.2.state = .setheld ∧ p.2.setTag = some ⟨o.job, o.set⟩ then
          { p.2 with state := .released, cls := effectiveClass counted p.2.key, owner := none, setTag := none }
        else p.2) } }
    purgeSet s = { post (.setLost o.job o.set) freed with dlu := { s.dlu with openSet := none } }) ∧
  ∀ (e : Entry) (before after : List Entry), (∀ x ∈ before, x.seq ≤ e.seq) → (∀ x xs, after = x :: xs → e.seq < x.seq) →
    insertEntry e (before ++ after) = before ++ e :: after

/-! ## Sensing and time -/

/-- Tier 2. R35. At a checkpoint sample instant each line's new level is accepted when it differs from the held level
and equals the last sample; the new sample becomes the last sample. R36: each accepted line gives one edge stamped TC;
the edges of one instant wait together, behind those of earlier instants (log 4). -/
def Obligations.CheckpointDebounce : Prop :=
  ∀ (s : State) (new : CheckpointLines), s.porst = false →
    let m := s.ckm
    let accepts := fun c : Checkpoint => decide (new.getLsbD c.val ≠ m.ckHeld.getLsbD c.val ∧
      m.ckLast.map (fun l => l.getLsbD c.val) = some (new.getLsbD c.val))
    ∃ held : CheckpointLines,
      exec (.checkpointSampleInstant new) s = .next { s with
        ckm := { m with
          ckHeld := held
          ckLast := some new
          edges := m.edges ++ (if (List.finRange 24).filter accepts = [] then []
            else [((List.finRange 24).filter accepts).map fun c =>
              ⟨c, if new.getLsbD c.val then .lead else .trail, m.tc⟩]) } } ∧
      ∀ c : Checkpoint, held.getLsbD c.val = if accepts c then new.getLsbD c.val else m.ckHeld.getLsbD c.val

/-- Tier 2. R46, R44, R38, R35. A wall tick: the still detector counts and may post path still, the cover lines are
judged every cover sample period, and each running settle and cover-settle timer counts down (one that has expired waits
to be taken, log 4). -/
def Obligations.WallTick : Prop :=
  ∀ (s : State) (new : CoverLines), s.porst = false →
    let m := s.ckm
    let posts := decide (m.still = .watching ∧ m.stillCount + 1 = s.pds.timing.stillMs)
    let accepts := fun c : Cover => decide (new.getLsbD c.val ≠ m.cvHeld.getLsbD c.val ∧
      m.cvLast.map (fun l => l.getLsbD c.val) = some (new.getLsbD c.val))
    let down := fun t : Option Nat => t.map (· - 1)
    let ticked := fun mon : Monitor => { s with
      ckm := { mon with
        still := if posts then .still else m.still
        stillCount := if m.still = .watching then m.stillCount + 1 else m.stillCount
        stillDue := if posts then m.stillDue + 1 else m.stillDue }
      dlu := { s.dlu with bins := s.dlu.bins.map fun b => { b with timer := down b.timer } }
      rcc := { s.rcc with coverTimer := down s.rcc.coverTimer } }
    (m.coverTicks + 1 < s.pds.timing.coverSampleMs →
      exec (.wallTick new) s = .next (ticked { m with coverTicks := m.coverTicks + 1 })) ∧
    (s.pds.timing.coverSampleMs ≤ m.coverTicks + 1 → ∃ held : CoverLines,
      exec (.wallTick new) s = .next (ticked { m with
        coverTicks := 0
        cvHeld := held
        cvLast := some new
        coverEvents := m.coverEvents ++ ((List.finRange 6).filter accepts).map fun c => ⟨c, new.getLsbD c.val⟩ }) ∧
      ∀ c : Cover, held.getLsbD c.val = if accepts c then new.getLsbD c.val else m.cvHeld.getLsbD c.val)

/-- Tier 2. R41, R42, R44, R43, R61. A TP edge counts in the divider and restarts the still detector; the one that fills
the divider moves TC by one and hands on a count advance with the new value. A count advance that is taken lists the
deadlines that expire at its value, record by record: the lead expiry first, then the trail expiries. Count advances and
expired deadlines wait to be taken (log 4), and a count advance that is not due changes nothing (log 2). -/
def Obligations.TransportPulses : Prop :=
  (∀ s : State, s.porst = false →
    let full := 2 ^ s.pds.timing.tdiv ≤ s.ckm.partialCount + 1
    exec .tpEdge s = .next { s with
      ckm := { s.ckm with
        stillCount := 0
        still := .watching
        partialCount := if full then 0 else s.ckm.partialCount + 1
        tc := if full then s.ckm.tc + 1 else s.ckm.tc
        advances := if full then s.ckm.advances ++ [s.ckm.tc + 1] else s.ckm.advances } }) ∧
  (∀ s : State, s.porst = false →
    (s.ckm.advances = [] → exec .countAdvance s = .next s) ∧
    ∀ t rest, s.ckm.advances = t :: rest → exec .countAdvance s = .next { s with
      ckm := { s.ckm with advances := rest }
      stk := { s.stk with due := s.stk.due ++ s.stk.sheets.flatMap (expiriesOf s.pds s.stk.path t) } }) ∧
  ∀ (p : PathDesc) (now : Count) (r : Sheet),
    let rt := p.routes[r.snap.route]
    let expires := fun (stamp : Count) (offset : Nat) => decide ((now - stamp).toNat = offset + 1)
    let trails := (r.occupied.filter fun e => expires e.base (r.snap.media + rt.tolerance e.step)).map
      (Expiry.trail r.tag ·)
    let leads : List Expiry := match r.next with
      | .step i => match rt.steps[i]? with
        | some st => if expires r.feedStamp st.latest then [.lead r.tag i] else []
        | none => []
      | _ => []
    (r.state = .admitted → expiriesOf p .moving now r = leads) ∧
    (r.state = .moving → expiriesOf p .moving now r = leads ++ trails) ∧
    (r.state = .runout → (r.next = .step rt.steps.length ∨ r.next = .purgeDone) →
      expiriesOf p .runningOut now r = trails) ∧
    (∀ x, r.state = .runout → r.next ≠ .step rt.steps.length → r.next ≠ .purgeDone → r.runoutStamp = some x →
      expiriesOf p .runningOut now r =
        (if expires x p.timing.runoutLimit then [.runout r.tag x] else []) ++ trails) ∧
    (r.state = .settling ∨ r.state = .stranded → ∀ path, expiriesOf p path now r = []) ∧
    expiriesOf p .halting now r = [] ∧ expiriesOf p .halted now r = []

/-- Tier 2. R44, R55, R56, R154, R165, R166, R167, R168, R170, R179, R180, R181, R109, R135. Path still completes a halt under
way: the sheets in the path are stranded, JAM STOP-STRAND is raised when there were any and no JAM is open, and HALTED
is reported; in the other Path States it changes nothing. Path stills wait to be taken (log 4), and one that is not due
changes nothing (log 2). HALTED takes a JAM in STOP through ASSESS, which gives each STRANDED record its disposition and
posts JAM REPORT (suspects in feed order: log 18), into CLEARANCE; and a JAM in RUNOUT with its run-out complete into
REBUILD, which ends the suspects left (log 34), purges the compile set when it must, locks the pages of the Reissue List
again and closes the record. The gate judges its head at the change to HALTED and at each line locked again (log 6). -/
def Obligations.PathStill : Prop :=
  (∀ s : State, s.porst = false →
    let t := { s with ckm := { s.ckm with stillDue := s.ckm.stillDue - 1 } }
    (s.ckm.stillDue = 0 → exec .pathStill s = .next s) ∧
    (0 < s.ckm.stillDue → s.stk.path ≠ .halting → exec .pathStill s = .next t) ∧
    (0 < s.ckm.stillDue → s.stk.path = .halting →
      let moving := fun r : Sheet => r.state = .admitted ∨ r.state = .moving ∨ r.state = .runout
      let u := watchGate t { t with stk := { s.stk with
        path := .halted
        sheets := s.stk.sheets.map fun r =>
          if moving r then { r with state := .stranded, runoutStamp := none } else r } }
      ((∃ r ∈ s.stk.sheets, moving r) → s.rcc.jam = none →
        exec .pathStill s = .next (watchGate s (haltedReport (raiseJam .stopStrand none none none u)))) ∧
      ((∀ r ∈ s.stk.sheets, ¬moving r) ∨ s.rcc.jam ≠ none →
        exec .pathStill s = .next (watchGate s (haltedReport u))))) ∧
  (∀ s : State,
    (s.rcc.activeIn .jam .stop = true → haltedReport s = enterAssess s) ∧
    (∀ i, s.rcc.jam = some i → i.status = .active → i.phase = .runout → i.runoutDone = true →
      haltedReport s = enterRebuild s) ∧
    (s.rcc.activeIn .jam .stop = false →
      s.rcc.activeIn .jam .runout = false ∨ (∃ i, s.rcc.jam = some i ∧ i.runoutDone = false) → haltedReport s = s)) ∧
  (∀ (s : State) (i : Incident), s.rcc.jam = some i →
    let named := i.details.filterMap (·.tag)
    let last : Sheet → Option Zone := fun r => match r.next with
      | .step 0 => none
      | .step (n + 1) => ((s.routeOf r).steps[n]?).map RouteStep.zone
      | _ => ((s.routeOf r).steps[(s.routeOf r).divertIndex]?).map RouteStep.zone
    let complete := fun r : Sheet => decide (r.sides = .both ∨ r.sides = .front ∧ (s.routeOf r).duplex = false)
    let byZone := fun r : Sheet => match last r with
      | some .imaged | some .finisher => Disposition.manual
      | some .finished => if complete r then .deliver else .purge
      | some .blank | none => .purge
    let assessed := fun r : Sheet =>
      if r.next = .step (s.routeOf r).steps.length then Disposition.manual
      else if named.contains r.tag then .manual
      else match r.disposition with
        | some d => d
        | none => if byZone r = .purge ∧ pastDivert (s.routeOf r) r = true then .manual else byZone r
    let t := { s with stk := { s.stk with sheets := s.stk.sheets.map fun r =>
      if r.state = .stranded then { r with disposition := some (assessed r) } else r } }
    let report := fun u : State => Notice.jamReport i.first i.count i.details i.setPurge
      ((u.stk.sheets.filter fun r => decide (r.state = .stranded)).map fun r =>
        ⟨r.tag, r.seq, r.job, r.snap.route, (s.routeOf r).bin, r.disposition, r.outOfOrder, r.occupied.map (·.ck)⟩)
      ((u.stk.sheets.filter fun r => decide (r.state = .settling) && r.suspect).map fun r =>
        ⟨r.tag, r.seq, (s.routeOf r).bin, r.stage⟩)
    let cleared := fun u : State => { u with
      rcc := { s.rcc with jam := some { i with phase := .clearance } }
      li := Link.post (.clearanceStatus (blockingList u)) (Link.post (report u) s.li) }
    enterAssess s = cleared t ∧ resumeClearance s = cleared s) ∧
  ((∀ s : State, enterRebuild s = close .jam (rebuildWork s)) ∧
    (∀ (s : State) (i : Incident), s.rcc.jam = some i →
      let x := removeSuspects [(0, .b), (0, .a), (1, .b), (1, .a), (2, .b), (2, .a), (3, .b), (3, .a), (4, .b), (4, .a),
        (5, .b), (5, .a)] { s with rcc := { s.rcc with jam := some { i with phase := .rebuild } } }
      let t := [(0 : Bin), 1, 2, 3, 4, 5].foldl (fun u b =>
        let sheets := (x.2.filter fun z => decide (z.1 = b)).map (·.2)
        if sheets = [] then u else Machine.post (.removeRequest .suspect b sheets none) u) x.1
      ((∃ j, t.rcc.jam = some j ∧ j.setPurge = true) → rebuildWork s = relockReissues (purgeCompile t)) ∧
      ((∀ j, t.rcc.jam = some j → j.setPurge = false) → rebuildWork s = relockReissues t)) ∧
    (∀ (s : State) (b : Bin), compileBin s = some b → purgeCompile s =
      post (.removeRequest .compileTray b (purgeQueue s).2 (s.dlu.openSet.map fun o => ⟨o.job, o.set, o.count⟩))
        (purgeSet (purgeQueue s).1)) ∧
    (∀ s : State, compileBin s = none → purgeCompile s = purgeSet s)) ∧
  (∀ s : State, relockReissues s = s.ogt.ril.foldl (fun u e => e.snap.keys.foldl (fun v k =>
    watchGate v (relockLine e.seq k v)) u) s) ∧
  ∀ (s : State) (q : Seq) (k : PageKey),
    (∀ i l, s.pgd.lookup k = some (i, l) → l.state = .released → relockLine q k s = { s with
      pgd := s.pgd.putWay i { l with state := .locked, cls := effectiveClass s k, owner := some q } }) ∧
    (s.pgd.stateOf k ≠ some .released → relockLine q k s = s)

/-- Tier 2. R39, R69, R149, R155, R156. A cover open raises JAM STOP-STRAND when a sheet is in the path as the tracker
takes it, and an INTERLOCK, in either order (log 7); the last cover shut starts the cover-settle timer; its expiry,
which waits at 0 (log 4), closes the INTERLOCK, and without one nothing changes (log 2). -/
def Obligations.Covers : Prop :=
  (∀ (s : State) (c : Cover) (before after : List CoverEvent) (opened : Bool), s.porst = false →
    s.ckm.coverEvents = before ++ ⟨c, opened⟩ :: after → (∀ x ∈ before, x.cover ≠ c) →
    let t := { s with ckm := { s.ckm with coverEvents := before ++ after } }
    let strands := fun x : State =>
      ∃ r ∈ x.stk.sheets, r.state = .admitted ∨ r.state = .moving ∨ r.state = .runout
    let halt := fun x : State => raiseJam .stopStrand none none none x
    let u := raiseInterlock c t
    (opened = true →
      (strands s → exec (.coverOpen c true) s = .next (watchGate s (raiseInterlock c (halt t)))) ∧
      (¬strands s → exec (.coverOpen c true) s = .next (watchGate s u)) ∧
      (strands u → exec (.coverOpen c false) s = .next (watchGate s (halt u))) ∧
      (¬strands u → exec (.coverOpen c false) s = .next (watchGate s u))) ∧
    (opened = false →
      (∀ i, s.rcc.interlock = some i → i.status = .active → i.phase = .opened → s.ckm.cvHeld = 0 →
        exec (.coverShut c) s = .next { t with
          rcc := { s.rcc with
            interlock := some { i with phase := .shutWait }, coverTimer := some s.pds.timing.coverSettleMs } }) ∧
      (s.rcc.activeIn .interlock .opened = false ∨ s.ckm.cvHeld ≠ 0 → exec (.coverShut c) s = .next t))) ∧
  ∀ s : State, s.porst = false →
    (s.rcc.coverTimer = some 0 → s.rcc.activeIn .interlock .shutWait = true →
      exec .coverSettleExpiry s = .next (watchGate s (close .interlock s))) ∧
    (s.rcc.coverTimer ≠ some 0 ∨ s.rcc.activeIn .interlock .shutWait = false →
      exec .coverSettleExpiry s = .next s)

/-! ## Tracking -/

/-- Tier 2. R36, R37, R57, R59, R60, R43, R58, R83. What raising a JAM at a checkpoint does: in RUNNING the stage A sheet
of each bin of which it is an exit checkpoint is marked suspect first. A lead edge: the level only in HALTED; PHANTOM over an occupant or without a
candidate, EARLY when no candidate may take it, STUCK for a full list, none of these in HALTING; else the oldest
candidate that may takes it. No edge is taken before those of an earlier sample instant (it then waits: logs 2 and
4). -/
def Obligations.LeadEdge : Prop :=
  (∀ (s : State) (cause : Cause) (c : Checkpoint) (tag : Option Tag),
    let exits := (List.finRange 6).filter fun b : Bin => s.pds.routes.toList.any fun x =>
      x.loaded && decide (x.bin = b) && x.steps.any fun y => y.isExit && decide (y.ck = c)
    let marked := exits.foldl (fun (u : State) b => match u.staged b .a with
      | some r => markSuspect r.tag u
      | none => u) s
    raiseAt cause c tag s = raiseJam cause (some c) tag none (if s.pds.mode = .running then marked else s)) ∧
  (∀ (s : State) (c : Checkpoint), NoEdgeNow s c → exec (.leadEdge c) s = .next s) ∧
  ∀ (s : State) (c : Checkpoint) (e : Edge) (before after : List Edge) (later : List (List Edge)),
    EdgeWaits s c e before after later → e.dir = .lead →
    let t := s.edgeTaken c true before after later
    let candidates := s.stk.sheets.filter fun r => decide (s.expected r = some c)
    (s.stk.path = .halted → exec (.leadEdge c) s = .next t) ∧
    (s.stk.path ≠ .halted →
      (∀ r, s.occupant c = some r →
        (RaisesFaults s → exec (.leadEdge c) s = .next (watchGate s (raiseAt .phantom c (some r.tag) t))) ∧
        (s.stk.path = .halting → exec (.leadEdge c) s = .next t)) ∧
      (s.occupant c = none → candidates = [] →
        (RaisesFaults s → exec (.leadEdge c) s = .next (watchGate s (raiseAt .phantom c none t))) ∧
        (s.stk.path = .halting → exec (.leadEdge c) s = .next t)) ∧
      (∀ r rest, s.occupant c = none → candidates = r :: rest → (∀ x ∈ r :: rest, ¬MayTake s e.stamp x) →
        (RaisesFaults s → exec (.leadEdge c) s = .next (watchGate s (raiseAt .early c (some r.tag) t))) ∧
        (s.stk.path = .halting → exec (.leadEdge c) s = .next t)) ∧
      (∀ pre r rest, s.occupant c = none → candidates = pre ++ r :: rest → (∀ x ∈ pre, ¬MayTake s e.stamp x) →
        MayTake s e.stamp r →
        (∀ o os, r.occupied = o :: os → 2 ≤ os.length →
          (RaisesFaults s → exec (.leadEdge c) s = .next (watchGate s (raiseAt .stuck o.ck (some r.tag) t))) ∧
          (s.stk.path = .halting → exec (.leadEdge c) s = .next t)) ∧
        (r.occupied.length < 3 →
          let rt := s.routeOf r
          let matched := fun x : Sheet => { x with
            occupied := x.occupied ++ [⟨c, x.next, e.stamp, e.stamp⟩]
            next := match x.next with
              | .step i =>
                if x.state = .runout ∧ x.disposition = some .purge ∧ rt.divertIndex < i + 1 then .purgeExit
                else .step (i + 1)
              | _ => .purgeDone
            state := if x.state = .admitted then .moving else x.state
            runoutStamp := if x.state = .runout then some e.stamp else x.runoutStamp }
          exec (.leadEdge c) s = .next (watchGate s { t with
            stk := { t.stk with sheets := s.stk.sheets.map fun x => if x.tag = r.tag then matched x else x }
            ogt := { s.ogt with interlock :=
              if r.state = .admitted ∧ s.ogt.interlock = some r.tag then none else s.ogt.interlock } }))))

/-- Tier 2. R36, R37, R57, R64, R65, R66, R74. A trail edge: the level only in HALTED; TRAIL FAULT without an occupant,
but not in HALTING; else the entry leaves, and at an exit step or PURGE EXIT the sheet leaves the path as R65 and R66
say (CALL FAULT at the exit is raised in HALTING too: log 25). No edge is taken before those of an earlier sample
instant (it then waits: logs 2 and 4). -/
def Obligations.TrailEdge : Prop :=
  (∀ (s : State) (c : Checkpoint), NoEdgeNow s c → exec (.trailEdge c) s = .next s) ∧
  ∀ (s : State) (c : Checkpoint) (e : Edge) (before after : List Edge) (later : List (List Edge)),
    EdgeWaits s c e before after later → e.dir = .trail →
    let t := s.edgeTaken c false before after later
    (s.stk.path = .halted → exec (.trailEdge c) s = .next t) ∧
    (s.occupant c = none →
      (RaisesFaults s → exec (.trailEdge c) s = .next (watchGate s (raiseAt .trailFault c none t))) ∧
      (s.stk.path = .halting → exec (.trailEdge c) s = .next t)) ∧
    (∀ r pre x post, s.occupant c = some r → s.stk.path ≠ .halted → r.occupied = pre ++ x :: post →
      (∀ y ∈ pre, y.ck ≠ c) → x.ck = c →
      let rt := s.routeOf r
      let left := fun (keep : Bool) => { t with stk := { t.stk with
        sheets := s.stk.sheets.map fun y => if y.tag = r.tag then { y with
          occupied := if keep then y.occupied.filter (fun z => decide (z.ck ≠ c)) else []
          runoutStamp := if y.state = .runout then some e.stamp else y.runoutStamp } else y } }
      let atExit := ∃ i st, x.step = .step i ∧ rt.steps[i]? = some st ∧ st.isExit = true
      (x.step ≠ .purgeExit → ¬atExit → exec (.trailEdge c) s = .next (left true)) ∧
      (x.step = .purgeExit → exec (.trailEdge c) s =
        .next (watchGate s (checkRunoutComplete (endSheet r.tag .purged (left false))))) ∧
      (atExit →
        let complete := r.sides = .both ∨ r.sides = .front ∧ rt.duplex = false
        (¬complete → exec (.trailEdge c) s = .next (watchGate s (raiseAt .callFault c (some r.tag) (left false)))) ∧
        (complete → r.outOfOrder = true → exec (.trailEdge c) s = .next (watchGate s (checkRunoutComplete
          (Machine.post (.removeRequest .outOfOrder rt.bin [(r.tag, r.seq)] none)
            (endSheet r.tag .removed (left false)))))) ∧
        (complete → r.outOfOrder = false → exec (.trailEdge c) s =
          .next (watchGate s (checkRunoutComplete (handOver c r (left false)))))))

/-- Tier 2. R78, R79, R81, R82, R83, R87, R88, R107. The hand-over to a bin: SEQUENCE when its queue is frozen or its
high mark is not below; else stage B leaves, stage A moves up, the sheet settles in stage A and the timer restarts. A
stage B sheet of the compile bin that fails the join test is marked and JAM COMPILE raised first; one that passes joins
the Open Set Record (a list longer than a lowered limit is kept whole until then: log 28). Release and compile change
the LOCKED lines the sequence owns, and no others. -/
def Obligations.HandOver : Prop :=
  (∀ (s : State) (q : Seq) (t : SetTag) (guarded : Bool),
    let released := fun l : Line =>
      { l with state := .released, cls := effectiveClass s l.key, owner := none, setTag := none }
    let owned := fun l : Line => l.state = .locked ∧ l.owner = some q
    releaseOwner q s = { s with pgd := { s.pgd with lines := s.pgd.lines.map fun p =>
      (p.1, if owned p.2 then released p.2 else p.2) } } ∧
    compileOwner q t guarded s = { s with pgd := { s.pgd with lines := s.pgd.lines.map fun p => (p.1,
      if owned p.2 then
        if effectiveClass s p.2.key = .full ∧ guarded = true then
          { p.2 with state := .setheld, cls := .full, setTag := some t }
        else released p.2
      else p.2) } }) ∧
  (∀ (s : State) (c : Checkpoint) (r : Sheet),
    let b := (s.routeOf r).bin
    let refuse := fun u : State => raiseJam .sequence (some c) (some r.tag) none u
    (s.frozen b = true → handOver c r s = refuse s) ∧
    (s.frozen b = false → joinFailure b s = none →
      (r.seq ≤ s.highMark b → handOver c r s = refuse s) ∧
      (s.highMark b < r.seq → handOver c r s =
        restartTimer b (updSheet r.tag (fun x => { x with
          state := .settling, stage := some .a, disposition := none, runoutStamp := none })
          (shiftA b (leaveB b s))))) ∧
    (∀ x, joinFailure b s = some x →
      let u := raiseJam .compile none (some x.tag) (some (.bin b)) (markSuspect x.tag s)
      (TableOk s.stk → (markSuspect x.tag s).frozen b = true) ∧ (u.frozen b = true → handOver c r s = refuse u))) ∧
  (∀ (s : State) (b : Bin),
    (s.staged b .b = none → leaveB b s = s) ∧
    ∀ r, s.staged b .b = some r → isCompile s b = false →
      leaveB b s = setLastDelivered b r.seq (releaseOwner r.seq (endSheet r.tag .delivered s))) ∧
  (∀ (s : State) (b : Bin) (r : Sheet), s.staged b .b = some r → isCompile s b = true →
    let u := joinSet b r (endSheet r.tag .compiled s)
    leaveB b s = setLastDelivered b r.seq (compileOwner r.seq ⟨r.job, r.setNumber⟩ (setGuarded u) u)) ∧
  (∀ (s : State) (b : Bin) (r : Sheet),
    let mine : Protected := ⟨r.seq, r.job, r.snap⟩
    let set := fun o : OpenSet => { s with dlu := { s.dlu with openSet := some o } }
    (s.dlu.openSet = none → joinSet b r s = set ⟨b, r.job, r.setNumber, s.dlu.bins[b].lastDelivered, r.seq, r.seq, 1,
      r.setEnd, some [mine]⟩) ∧
    ∀ o, s.dlu.openSet = some o →
      let n := { o with last := r.seq, count := o.count + 1, endCompiled := o.endCompiled || r.setEnd }
      (o.guarded = none → joinSet b r s = set n) ∧
      ∀ l, o.guarded = some l →
        (l.length < s.pds.timing.setProtection → joinSet b r s = set { n with guarded := some (l ++ [mine]) }) ∧
        (s.pds.timing.setProtection ≤ l.length →
          joinSet b r s = releaseSet ⟨o.job, o.set⟩ (set { n with guarded := none }))) ∧
  ∀ (s : State) (b : Bin) (x : Sheet), joinFailure b s = some x ↔
    isCompile s b = true ∧ s.frozen b = false ∧ s.staged b .b = some x ∧
      ∃ o, s.dlu.openSet = some o ∧ ¬(o.bin = b ∧ o.job = x.job ∧ o.set = x.setNumber ∧ o.endCompiled = false)

/-- Tier 2. R61, R62, R63, R73, R74, R75, R175, R176, R179. The expiries taken one by one: a step-0 lead window ends its
sheet MISFED and raises MISFEED (before any admission of its entry: log 33), a later one raises LATE, a trail deadline
raises STUCK, a run-out deadline ends its sheet REMOVED and reports the absence. A sheet that has moved on since is
passed over (log 4). An absence that finds the JAM in RUNOUT diverts the later DELIVER sheets of the bin, or marks them
out-of-order, and marks the later settling ones suspect; the end of the last RUNOUT record is run-out complete, which
halts the path. -/
def Obligations.Deadlines : Prop :=
  (∀ (s : State) (t : Tag) (i : Nat) (rest : List Expiry), s.porst = false → s.stk.due = .lead t i :: rest →
    let u := { s with stk := { s.stk with due := rest } }
    ((∀ r, s.sheet? t = some r → ¬((r.state = .admitted ∨ r.state = .moving) ∧ r.next = .step i)) →
      exec .leadWindowExpiry s = .next u) ∧
    ∀ r, s.sheet? t = some r → r.state = .admitted ∨ r.state = .moving → r.next = .step i →
      (∀ st, (s.routeOf r).steps[i]? = some st → i ≠ 0 →
        exec .leadWindowExpiry s = .next (watchGate s (raiseAt .late st.ck (some t) u))) ∧
      (∀ st, (s.routeOf r).steps[0]? = some st → i = 0 → exec .leadWindowExpiry s = .next (watchGate s
        (raise ⟨.misfeed, ⟨.misfeed, some st.ck, some t, none⟩, some ⟨r.seq, t, (s.routeOf r).tray, false⟩⟩
          (endSheet t .misfed u))))) ∧
  (∀ (s : State) (t : Tag) (x : Occupied) (rest : List Expiry), s.porst = false → s.stk.due = .trail t x :: rest →
    let u := { s with stk := { s.stk with due := rest } }
    let holds := ∃ r, s.sheet? t = some r ∧ x ∈ r.occupied ∧ (r.state = .moving ∨ r.state = .runout)
    (¬holds → exec .trailDeadlineExpiry s = .next u) ∧
    (holds → exec .trailDeadlineExpiry s = .next (watchGate s (raiseAt .stuck x.ck (some t) u)))) ∧
  (∀ (s : State) (t : Tag) (x : Count) (rest : List Expiry), s.porst = false → s.stk.due = .runout t x :: rest →
    let u := { s with stk := { s.stk with due := rest } }
    ((∀ r, s.sheet? t = some r → ¬(r.state = .runout ∧ r.runoutStamp = some x)) →
      exec .runoutDeadlineExpiry s = .next u) ∧
    ∀ r, s.sheet? t = some r → r.state = .runout → r.runoutStamp = some x →
      exec .runoutDeadlineExpiry s = .next (watchGate s (checkRunoutComplete
        (absenceReport r (s.routeOf r).bin (cancelling s r.job) (endSheet t .removed u))))) ∧
  (∀ (s : State) (r : Sheet) (b : Bin) (cancelled : Bool),
    let running := ∃ i, s.rcc.jam = some i ∧ i.status = .active ∧ i.phase = .runout
    (¬running ∨ r.disposition ≠ some .deliver ∨ cancelled = true → absenceReport r b cancelled s = s) ∧
    (running → r.disposition = some .deliver → cancelled = false → ∀ later : List Sheet,
      later.Perm (s.stk.sheets.filter fun x =>
        decide (x.state = .runout ∧ x.disposition = some .deliver ∧ s.binOf x = b ∧ r.seq < x.seq)) →
      later.Pairwise (fun x y => x.seq < y.seq) →
      let t := (later.map (·.tag)).foldl divert s
      absenceReport r b cancelled s =
        ((t.stk.sheets.filter fun x => decide (x.state = .settling ∧ t.binOf x = b ∧ r.seq < x.seq)).map
          (·.tag)).foldl (fun v x => markSuspect x v) t)) ∧
  (∀ (s : State) (t : Tag) (r : Sheet), TableOk s.stk → s.sheet? t = some r →
    let past := ∃ i, r.next = .step i ∧ (s.routeOf r).divertIndex + 1 < i
    let course := match r.next with
      | .step i => if (s.routeOf r).divertIndex < i then NextStep.purgeExit else .step i
      | x => x
    let put := fun f : Sheet → Sheet => { s with
      stk := { s.stk with sheets := s.stk.sheets.map fun x => if x.tag = t then f x else x } }
    (r.state ≠ .runout ∨ r.disposition ≠ some .deliver → divert s t = s) ∧
    (r.state = .runout → r.disposition = some .deliver → past →
      divert s t = put fun x => { x with outOfOrder := true }) ∧
    (r.state = .runout → r.disposition = some .deliver → ¬past →
      divert s t = { put (fun x => { x with disposition := some .purge, next := course }) with
        li := Link.placeDivert t s.li })) ∧
  ∀ s : State,
    let finished := s.stk.path = .runningOut ∧ ∀ r ∈ s.stk.sheets, r.state ≠ .runout
    (¬finished ∨ s.rcc.activeIn .jam .runout = false → checkRunoutComplete s = s) ∧
    ∀ i, s.rcc.jam = some i → finished → i.status = .active → i.phase = .runout → checkRunoutComplete s = { s with
      rcc := { s.rcc with jam := some { i with runoutDone := true } }
      stk := { s.stk with path := .halting }
      li := s.li.placeHalt }

/-- Tier 2. R80, R82, R83. A settle timer expires: the stage B sheet leaves, stage A moves up and the timer restarts, or
stops over an empty queue; a failed join test marks the sheet and raises JAM COMPILE; a frozen queue does not advance.
An expired timer waits at 0 (log 4), and without one nothing changes (log 2). -/
def Obligations.SettleTimerExpiry : Prop :=
  ∀ (s : State) (b : Bin), s.porst = false →
    (s.dlu.bins[b].timer ≠ some 0 ∨ s.frozen b = true → exec (.settleTimerExpiry b) s = .next s) ∧
    (s.dlu.bins[b].timer = some 0 → s.frozen b = false →
      (∀ x, joinFailure b s = some x → exec (.settleTimerExpiry b) s = .next (watchGate s
        (raiseJam .compile none (some x.tag) (some (.bin b)) (markSuspect x.tag s)))) ∧
      (joinFailure b s = none →
        let t := shiftA b (leaveB b s)
        let timer := fun n : Option Nat =>
          { t with dlu := { t.dlu with bins := upd t.dlu.bins b fun x => { x with timer := n } } }
        (t.staged b .a = none → t.staged b .b = none →
          exec (.settleTimerExpiry b) s = .next (watchGate s (timer none))) ∧
        ((t.staged b .a).isSome ∨ (t.staged b .b).isSome →
          exec (.settleTimerExpiry b) s = .next (watchGate s (timer (some s.pds.timing.settleMs))))))

/-- Tier 2. R53, R139, R143, R145. The end of a record: it leaves the table, the interlock that names it clears, its
job's counts follow the ending, and a PURGED, REMOVED or MISFED sequence is reissued, or for a cancelling job its lines
go; then the gate judges its head (R135; log 6). -/
def Obligations.RecordEnds : Prop :=
  (∀ (s : State) (t : Tag) (e : Ending), s.sheet? t = none → endSheet t e s = s) ∧
  ∀ (s : State) (t : Tag) (r : Sheet) (e : Ending), s.sheet? t = some r →
    let counted := fun b : Job => match e with
      | .delivered => { b with stt := b.stt - 1, delivered := b.delivered + 1 }
      | .compiled => { b with stt := b.stt - 1, set := b.set + 1 }
      | .purged => { b with stt := b.stt - 1, purged := b.purged + 1 }
      | .removed => { b with stt := b.stt - 1, removed := b.removed + 1 }
      | .misfed => { b with stt := b.stt - 1 }
    let u := { s with
      stk := { s.stk with sheets := s.stk.sheets.filter fun x => decide (x.tag ≠ t) }
      ogt := { s.ogt with
        interlock := if s.ogt.interlock = some t then none else s.ogt.interlock
        jobs := upd s.ogt.jobs r.job counted } }
    let entry : Entry := ⟨r.seq, r.job, r.snap, false, some (if e = .misfed then .misfeed else .path),
      if e = .misfed then min (r.retries + 1) 4 else r.retries⟩
    (e = .delivered ∨ e = .compiled → endSheet t e s = watchGate s (checkDone r.job u)) ∧
    (e = .purged ∨ e = .removed ∨ e = .misfed →
      (s.ogt.jobs[r.job].state ≠ .cancelling → endSheet t e s = watchGate s (checkDone r.job { u with
        ogt := { u.ogt with
          ril := insertEntry entry s.ogt.ril
          jobs := upd u.ogt.jobs r.job fun b => { b with ril := b.ril + 1 } } })) ∧
      (s.ogt.jobs[r.job].state = .cancelling →
        endSheet t e s = watchGate s (checkDone r.job { u with pgd := s.pgd.invalidateOwner r.seq })))

/-! ## Incidents -/

/-- Tier 2. R149, R150, R151, R155, R159, R164, R177, R55, R138, R163. An occurrence is dropped in SETUP. It opens its
class's record ACTIVE or PENDING, preempting a less urgent ACTIVE one (a JAM in RUNOUT loses its waiting frames), or
merges into it: an open record counts the occurrence and keeps the first eight details. An INTERLOCK or JAM that opens
withdraws an admission, and the gate judges its head (log 6), whether it becomes ACTIVE, preempts or waits PENDING, and
only then, unless PENDING, asks for a halt; a JAM in STOP withdraws its frames, and in HALTED goes on to ASSESS; a
MISFEED makes its retry test; a SUPPLY holds the object at its list's tail (log 18) and tests whether it still lacks
anything. In HALTING nothing more is asked (log 27). -/
def Obligations.OccurrenceIsTaken : Prop :=
  (∀ (s : State) (o : Occurrence), s.pds.mode = .setup → raise o s = s) ∧
  (∀ (s : State) (o : Occurrence), s.pds.mode = .running → o.cls = .interlock ∨ o.cls = .jam →
    s.rcc.get o.cls = none → s.rcc.active = none → s.stk.path = .moving ∨ s.stk.path = .runningOut →
    let i : Incident := ⟨.active, if o.cls = .jam then .stop else .opened, o.detail.cause, 1, [o.detail], [], o.misfeed,
      decide (o.detail.cause = .compile), false⟩
    let g := watchGate s (withdrawAdmission { s with
      li := Link.post (.incidentOpened o.cls o.detail.cause o.detail .active none) s.li
      rcc := s.rcc.set o.cls (some i) })
    raise o s = { g with
      stk := { g.stk with path := .halting }
      li := Link.placeHalt (if o.cls = .jam then { g.li with runoutPlace := none, divertQueue := [] } else g.li)
      rcc := if o.cls = .jam then g.rcc else { g.rcc with coverTimer := none } }) ∧
  (∀ (s : State) (o : Occurrence), s.pds.mode = .running → o.cls = .interlock ∨ o.cls = .jam → s.rcc.get o.cls = none →
    let opened := fun (st : IncStatus) (pre : Option IncClass) (u : State) => watchGate s (withdrawAdmission { u with
      li := Link.post (.incidentOpened o.cls o.detail.cause o.detail st pre) u.li
      rcc := u.rcc.set o.cls (some ⟨st, if o.cls = .jam then .stop else .opened, o.detail.cause, 1, [o.detail], [],
        o.misfeed, decide (o.detail.cause = .compile), false⟩) })
    let start := fun g : State =>
      if o.cls = .jam then enterStop g else requestHalt { g with rcc := { g.rcc with coverTimer := none } }
    (s.rcc.active = none → raise o s = start (opened .active none s)) ∧
    ∀ a j, s.rcc.active = some a → s.rcc.get a = some j →
      (o.cls.level < a.level → raise o s = start (opened .active (some a) { s with
        li := if a = .jam ∧ j.phase = .runout then { s.li with runoutPlace := none, divertQueue := [] } else s.li
        rcc := { s.rcc.set a (some { j with status := .preempted }) with stack := a :: s.rcc.stack } })) ∧
      (¬o.cls.level < a.level → raise o s = opened .pending none s)) ∧
  (∀ (s : State) (o : Occurrence), s.pds.mode = .running → s.rcc.get o.cls = none →
    let r := (raise o s).rcc
    (∀ a, s.rcc.active = some a → o.cls.level < a.level → o.cls = .interlock ∨ o.cls = .jam →
      (∃ i, r.get o.cls = some i ∧ i.status = .active ∧ i.first = o.detail.cause ∧ i.count = 1) ∧
      r.statusOf a = some .preempted ∧ r.stack = a :: s.rcc.stack ∧
      (s.rcc.activeIn .jam .runout = true → (raise o s).li.runoutPlace = none ∧ (raise o s).li.divertQueue = [])) ∧
    (∀ a, s.rcc.active = some a → ¬o.cls.level < a.level →
      (∃ i, r.get o.cls = some i ∧ i.status = .pending ∧ i.first = o.detail.cause ∧ i.count = 1) ∧
      r.active = some a ∧ r.stack = s.rcc.stack)) ∧
  (∀ (s : State) (o : Occurrence) (i : Incident), s.pds.mode = .running → o.cls = .interlock ∨ o.cls = .jam →
    s.rcc.get o.cls = some i → ∃ j, (raise o s).rcc.get o.cls = some j ∧
      j.count = min (i.count + 1) 255 ∧ j.status = i.status ∧ j.first = i.first ∧
      j.details = (if i.details.length < 8 then i.details ++ [o.detail] else i.details) ∧
      (j.setPurge = true ↔ i.setPurge = true ∨ o.detail.cause = .compile)) ∧
  (∀ (s : State) (o : Occurrence) (m : Misfeed), s.pds.mode = .running → o.cls = .misfeed → o.misfeed = some m →
    let opened := fun (st : IncStatus) (pre : Option IncClass) (r : Recovery) => { s with
      li := Link.post (.incidentOpened .misfeed o.detail.cause o.detail st pre) s.li
      rcc := { r with misfeed := some ⟨st, .retry, o.detail.cause, 1, [o.detail], [], some m,
        decide (o.detail.cause = .compile), false⟩ } }
    (s.rcc.misfeed = none → s.rcc.active = none → raise o s = enterRetry close (opened .active none s.rcc)) ∧
    (∀ j, s.rcc.misfeed = none → s.rcc.active = some .supply → s.rcc.supply = some j →
      raise o s = enterRetry close (opened .active (some .supply)
        { s.rcc with supply := some { j with status := .preempted }, stack := .supply :: s.rcc.stack })) ∧
    (s.rcc.misfeed = none → s.rcc.active = some .interlock ∨ s.rcc.active = some .jam →
      raise o s = opened .pending none s.rcc) ∧
    ∀ j, s.rcc.misfeed = some j → raise o s = retryTest m { s with
      rcc := { s.rcc with misfeed := some { j with
        count := min (j.count + 1) 255
        details := if j.details.length < 8 then j.details ++ [o.detail] else j.details
        setPurge := j.setPurge || decide (o.detail.cause = .compile) } } }) ∧
  (∀ (s : State) (o : Occurrence) (x : Obj), s.pds.mode = .running → o.cls = .supply → o.detail.obj = some x →
    let opened := fun st : IncStatus => { s with
      li := Link.post (.incidentOpened .supply o.detail.cause o.detail st none) s.li
      rcc := { s.rcc with supply := some ⟨st, .hold, o.detail.cause, 1, [o.detail], [x], o.misfeed,
        decide (o.detail.cause = .compile), false⟩ } }
    (s.rcc.supply = none → s.rcc.active = none → raise o s = testSupply close (opened .active)) ∧
    (s.rcc.supply = none → s.rcc.active ≠ none → raise o s = opened .pending) ∧
    ∀ j, s.rcc.supply = some j →
      let t := { s with rcc := { s.rcc with supply := some { j with
        count := min (j.count + 1) 255
        details := if j.details.length < 8 then j.details ++ [o.detail] else j.details
        setPurge := j.setPurge || decide (o.detail.cause = .compile)
        hold := if j.hold.contains x then j.hold else j.hold ++ [x] } } }
      (j.status = .active → raise o s = testSupply close t) ∧ (j.status ≠ .active → raise o s = t)) ∧
  (∀ (s : State) (i : Incident), s.rcc.supply = some i →
    let lacks := ∃ x ∈ i.hold, (∃ t, x = .tray t ∧ s.ogt.trays[t].empty = true) ∨ ∃ b, x = .bin b ∧ s.dlu.bins[b].full = true
    (lacks → testSupply close s = s) ∧ (¬lacks → testSupply close s = close .supply s)) ∧
  (∀ (s : State) (o : Occurrence) (i : Incident), s.pds.mode = .running → s.rcc.get o.cls = some i →
    let j := { i with
      count := min (i.count + 1) 255
      details := if i.details.length < 8 then i.details ++ [o.detail] else i.details
      setPurge := i.setPurge || decide (o.detail.cause = .compile) }
    (o.cls = .interlock → raise o s = requestHalt { s with
      rcc := { s.rcc with interlock := some { j with phase := .opened }, coverTimer := none } }) ∧
    (o.cls = .jam →
      let t := { s with rcc := { s.rcc with jam := some j } }
      (i.status = .active → raise o s = enterStop t) ∧
      (i.status = .preempted → raise o s = { s with rcc := { s.rcc with jam := some { j with phase := .stop } } }) ∧
      (i.status = .pending → raise o s = t))) ∧
  (∀ (s : State) (i : Incident), s.rcc.jam = some i →
    let t := { s with
      rcc := { s.rcc with jam := some { i with phase := .stop } }
      li := { s.li with runoutPlace := none, divertQueue := [] } }
    (s.stk.path = .halted → enterStop s = enterAssess t) ∧ (s.stk.path ≠ .halted → enterStop s = requestHalt t)) ∧
  ∀ s : State,
    (s.stk.path = .moving ∨ s.stk.path = .runningOut → requestHalt s = { s with
      stk := { s.stk with path := .halting }, li := s.li.placeHalt }) ∧
    (s.stk.path = .halting ∨ s.stk.path = .halted → requestHalt s = s)

/-- Tier 2. R153, R152, R155, R156, R158, R159, R160, R181. A record closes: it is CLEAR; the next is the
highest-priority PENDING record or that of the top frame, the PENDING one only when its priority is higher; INCIDENT
CLOSED names it; a PENDING record starts its first phase, a frame is removed and its record resumes by its saved phase;
then, when the class holds the path and no INTERLOCK or JAM is open, the path resumes, and otherwise it does not. The
record chosen may close in turn (`closeRecord n` is `close` with at most n closings in a row; four classes make
four). -/
def Obligations.RecordCloses : Prop :=
  ((∀ (s : State) (c : IncClass), s.rcc.get c = none → close c s = s) ∧
  (∀ (s : State) (c : IncClass) (i : Incident), s.rcc.get c = some i → (∀ d, d ≠ c → s.rcc.get d = none) →
    s.rcc.stack = [] →
    close c s = { s with
      li := Link.post (.incidentClosed c i.first i.count none) s.li
      rcc := { s.rcc with
        interlock := none, jam := none, misfeed := none, supply := none
        coverTimer := if c = .interlock then none else s.rcc.coverTimer }
      stk := { s.stk with path :=
        if (c = .interlock ∨ c = .jam) ∧ (s.stk.path = .halted ∨ s.stk.path = .halting) then .moving
        else s.stk.path } }) ∧
  ∀ (s : State), RecoveryOk s.rcc →
    ∀ c i, s.rcc.get c = some i → i.status = .active → (close c s).rcc.get c = none) ∧
  (∀ (c : IncClass) (s : State), close c s = closeRecord 4 c s) ∧
  (∀ (n : Nat) (s : State) (c : IncClass) (i : Incident), s.rcc.get c = some i →
    let r := { s.rcc.set c none with coverTimer := if c = .interlock then none else s.rcc.coverTimer }
    let first := fun d : IncClass => r.statusOf d = some .pending ∧ ∀ e, r.statusOf e = some .pending → d.level ≤ e.level
    let closed := fun next : Option IncClass =>
      { s with rcc := r, li := Link.post (.incidentClosed c i.first i.count next) s.li }
    let resumed := fun t : State =>
      if (c = .interlock ∨ c = .jam) ∧ t.rcc.interlock = none ∧ t.rcc.jam = none ∧
          (t.stk.path = .halted ∨ t.stk.path = .halting) then
        { t with stk := { t.stk with path := .moving } }
      else t
    ((∀ d, r.statusOf d ≠ some .pending) → r.stack = [] → closeRecord (n + 1) c s = resumed (closed none)) ∧
    (∀ d j, first d → (∀ t ts, r.stack = t :: ts → d.level < t.level) → r.get d = some j →
      let u := { closed (some d) with rcc := r.set d (some { j with status := .active }) }
      (d = .interlock → closeRecord (n + 1) c s = resumed (enterOpen u)) ∧
      (d = .jam → closeRecord (n + 1) c s = resumed (enterStop u)) ∧
      (d = .misfeed → closeRecord (n + 1) c s = resumed (enterRetry (closeRecord n) u)) ∧
      (d = .supply → closeRecord (n + 1) c s = resumed (testSupply (closeRecord n) u))) ∧
    ∀ d ts j, r.stack = d :: ts → (∀ e, first e → ¬e.level < d.level) → r.get d = some j → j.status = .preempted →
      let u := { closed (some d) with rcc := { r.set d (some { j with status := .active }) with stack := ts } }
      (d = .interlock → closeRecord (n + 1) c s = resumed (enterOpen u)) ∧
      (d = .jam → j.phase = .stop → closeRecord (n + 1) c s = resumed (enterStop u)) ∧
      (d = .jam → j.phase = .assess → closeRecord (n + 1) c s = resumed (enterAssess u)) ∧
      (d = .jam → j.phase = .clearance ∨ j.phase = .dispose ∨ j.phase = .runout →
        closeRecord (n + 1) c s = resumed (resumeClearance u)) ∧
      (d = .jam → j.phase = .rebuild → closeRecord (n + 1) c s = resumed (closeRecord n .jam (rebuildWork u))) ∧
      (d = .misfeed → (∀ m, j.misfeed = some m → m.judged = true) →
        closeRecord (n + 1) c s = resumed (testTrayHold (closeRecord n) u)) ∧
      (d = .misfeed → ∀ m, j.misfeed = some m → m.judged = false →
        closeRecord (n + 1) c s = resumed (enterRetry (closeRecord n) u)) ∧
      (d = .supply → closeRecord (n + 1) c s = resumed (testSupply (closeRecord n) u))) ∧
  (∀ (s : State) (i : Incident), s.rcc.interlock = some i → enterOpen s = requestHalt { s with
    rcc := { s.rcc with interlock := some { i with phase := .opened }, coverTimer := none } }) ∧
  (∀ (cl : IncClass → State → State) (s : State) (i : Incident), s.rcc.supply = some i →
    let lacks := ∃ x ∈ i.hold, (∃ t, x = .tray t ∧ s.ogt.trays[t].empty = true) ∨ ∃ b, x = .bin b ∧ s.dlu.bins[b].full = true
    (lacks → testSupply cl s = s) ∧ (¬lacks → testSupply cl s = cl .supply s)) ∧
  ∀ (cl : IncClass → State → State) (s : State) (i : Incident), s.rcc.misfeed = some i →
    let held := i.hold.filter fun o => match o with
      | .tray n => s.ogt.trays[n].held
      | _ => false
    let u := { s with rcc := { s.rcc with misfeed := some { i with phase := .trayHold, hold := held } } }
    (held ≠ [] → testTrayHold cl s = u) ∧ (held = [] → testTrayHold cl s = cl .misfeed u)

/-! ## Invariants that every step keeps -/

/-- Tier 1. What holds right after reset. -/
def Obligations.InvariantsAtReset : Prop :=
  LinkOk State.reset.li ∧ DramOk State.reset.cre ∧ PoolOk State.reset.pgd ∧ DirectoryOk State.reset.pgd ∧
    WalkOk State.reset.pgd ∧ TableOk State.reset.stk ∧ DividerOk State.reset ∧ EdgesOk State.reset.ckm ∧
    RecoveryOk State.reset.rcc

/-- Tier 3. R3, R9 to R12. No step overfills a queue of the link or leaves a frame waiting beside a free transmitter;
while PORST is asserted the link is not in use. -/
def Obligations.StepKeepsLink : Prop :=
  ∀ s t : State, (s.porst = false → LinkOk s.li) → step s = .next t → (t.porst = false → LinkOk t.li)

/-- Tier 3. R115, R118, R41, R36. Every step keeps the retention DRAM and the length records in the model's canonical
form (log 10), the divider in its range, and an edge in every sample instant that waits (log 4). -/
def Obligations.StepKeepsStorage : Prop :=
  ∀ s t : State, step s = .next t →
    (DramOk s.cre → DramOk t.cre) ∧ (DividerOk s → DividerOk t) ∧ (EdgesOk s.ckm → EdgesOk t.ckm)

/-- Tier 3. R94, R115, R113. Every step keeps each page in at most one line of its own set and each of the 8192 blocks
on the free list or in exactly one chain, and an active flush walk with sets left to walk and fewer than 16 keys to
report. -/
def Obligations.StepKeepsDirectory : Prop :=
  (∀ s t : State, PoolOk s.pgd → DirectoryOk s.pgd → step s = .next t → PoolOk t.pgd ∧ DirectoryOk t.pgd) ∧
  ∀ s t : State, WalkOk s.pgd → step s = .next t → WalkOk t.pgd

/-- Tier 3. R49, R54. Every step keeps the Sheet Tracking Table: no slot or tag twice, at most three checkpoints to a
sheet and one occupant to a checkpoint. -/
def Obligations.StepKeepsTable : Prop :=
  ∀ s t : State, TableOk s.stk → step s = .next t → TableOk t.stk

/-- Tier 3. R148, R152, R153. Every step keeps the Incident Table and the Recovery Stack in order. -/
def Obligations.StepKeepsIncidents : Prop :=
  ∀ s t : State, RecoveryOk s.rcc → step s = .next t → RecoveryOk t.rcc
end

