-- ==== Sys2Proof/Laws/State.lean ====
section
/-!
SUPPORT. Laws/State.lean: what each block update leaves and changes, one lemma per field per update.
-/
namespace Sys2Proof.Machine

section onLi
variable (f : Link → Link) (s : State)
@[simp] theorem onLi_pending : (s.onLi f).pending = s.pending := rfl
@[simp] theorem onLi_porst : (s.onLi f).porst = s.porst := rfl
@[simp] theorem onLi_li : (s.onLi f).li = f s.li := rfl
@[simp] theorem onLi_pds : (s.onLi f).pds = s.pds := rfl
@[simp] theorem onLi_ckm : (s.onLi f).ckm = s.ckm := rfl
@[simp] theorem onLi_stk : (s.onLi f).stk = s.stk := rfl
@[simp] theorem onLi_dlu : (s.onLi f).dlu = s.dlu := rfl
@[simp] theorem onLi_pgd : (s.onLi f).pgd = s.pgd := rfl
@[simp] theorem onLi_cre : (s.onLi f).cre = s.cre := rfl
@[simp] theorem onLi_ogt : (s.onLi f).ogt = s.ogt := rfl
@[simp] theorem onLi_rcc : (s.onLi f).rcc = s.rcc := rfl
end onLi

section onPds
variable (f : PathDesc → PathDesc) (s : State)
@[simp] theorem onPds_pending : (s.onPds f).pending = s.pending := rfl
@[simp] theorem onPds_porst : (s.onPds f).porst = s.porst := rfl
@[simp] theorem onPds_li : (s.onPds f).li = s.li := rfl
@[simp] theorem onPds_pds : (s.onPds f).pds = f s.pds := rfl
@[simp] theorem onPds_ckm : (s.onPds f).ckm = s.ckm := rfl
@[simp] theorem onPds_stk : (s.onPds f).stk = s.stk := rfl
@[simp] theorem onPds_dlu : (s.onPds f).dlu = s.dlu := rfl
@[simp] theorem onPds_pgd : (s.onPds f).pgd = s.pgd := rfl
@[simp] theorem onPds_cre : (s.onPds f).cre = s.cre := rfl
@[simp] theorem onPds_ogt : (s.onPds f).ogt = s.ogt := rfl
@[simp] theorem onPds_rcc : (s.onPds f).rcc = s.rcc := rfl
end onPds

section onCkm
variable (f : Monitor → Monitor) (s : State)
@[simp] theorem onCkm_pending : (s.onCkm f).pending = s.pending := rfl
@[simp] theorem onCkm_porst : (s.onCkm f).porst = s.porst := rfl
@[simp] theorem onCkm_li : (s.onCkm f).li = s.li := rfl
@[simp] theorem onCkm_pds : (s.onCkm f).pds = s.pds := rfl
@[simp] theorem onCkm_ckm : (s.onCkm f).ckm = f s.ckm := rfl
@[simp] theorem onCkm_stk : (s.onCkm f).stk = s.stk := rfl
@[simp] theorem onCkm_dlu : (s.onCkm f).dlu = s.dlu := rfl
@[simp] theorem onCkm_pgd : (s.onCkm f).pgd = s.pgd := rfl
@[simp] theorem onCkm_cre : (s.onCkm f).cre = s.cre := rfl
@[simp] theorem onCkm_ogt : (s.onCkm f).ogt = s.ogt := rfl
@[simp] theorem onCkm_rcc : (s.onCkm f).rcc = s.rcc := rfl
end onCkm

section onStk
variable (f : Tracker → Tracker) (s : State)
@[simp] theorem onStk_pending : (s.onStk f).pending = s.pending := rfl
@[simp] theorem onStk_porst : (s.onStk f).porst = s.porst := rfl
@[simp] theorem onStk_li : (s.onStk f).li = s.li := rfl
@[simp] theorem onStk_pds : (s.onStk f).pds = s.pds := rfl
@[simp] theorem onStk_ckm : (s.onStk f).ckm = s.ckm := rfl
@[simp] theorem onStk_stk : (s.onStk f).stk = f s.stk := rfl
@[simp] theorem onStk_dlu : (s.onStk f).dlu = s.dlu := rfl
@[simp] theorem onStk_pgd : (s.onStk f).pgd = s.pgd := rfl
@[simp] theorem onStk_cre : (s.onStk f).cre = s.cre := rfl
@[simp] theorem onStk_ogt : (s.onStk f).ogt = s.ogt := rfl
@[simp] theorem onStk_rcc : (s.onStk f).rcc = s.rcc := rfl
end onStk

section onDlu
variable (f : Delivery → Delivery) (s : State)
@[simp] theorem onDlu_pending : (s.onDlu f).pending = s.pending := rfl
@[simp] theorem onDlu_porst : (s.onDlu f).porst = s.porst := rfl
@[simp] theorem onDlu_li : (s.onDlu f).li = s.li := rfl
@[simp] theorem onDlu_pds : (s.onDlu f).pds = s.pds := rfl
@[simp] theorem onDlu_ckm : (s.onDlu f).ckm = s.ckm := rfl
@[simp] theorem onDlu_stk : (s.onDlu f).stk = s.stk := rfl
@[simp] theorem onDlu_dlu : (s.onDlu f).dlu = f s.dlu := rfl
@[simp] theorem onDlu_pgd : (s.onDlu f).pgd = s.pgd := rfl
@[simp] theorem onDlu_cre : (s.onDlu f).cre = s.cre := rfl
@[simp] theorem onDlu_ogt : (s.onDlu f).ogt = s.ogt := rfl
@[simp] theorem onDlu_rcc : (s.onDlu f).rcc = s.rcc := rfl
end onDlu

section onPgd
variable (f : Directory → Directory) (s : State)
@[simp] theorem onPgd_pending : (s.onPgd f).pending = s.pending := rfl
@[simp] theorem onPgd_porst : (s.onPgd f).porst = s.porst := rfl
@[simp] theorem onPgd_li : (s.onPgd f).li = s.li := rfl
@[simp] theorem onPgd_pds : (s.onPgd f).pds = s.pds := rfl
@[simp] theorem onPgd_ckm : (s.onPgd f).ckm = s.ckm := rfl
@[simp] theorem onPgd_stk : (s.onPgd f).stk = s.stk := rfl
@[simp] theorem onPgd_dlu : (s.onPgd f).dlu = s.dlu := rfl
@[simp] theorem onPgd_pgd : (s.onPgd f).pgd = f s.pgd := rfl
@[simp] theorem onPgd_cre : (s.onPgd f).cre = s.cre := rfl
@[simp] theorem onPgd_ogt : (s.onPgd f).ogt = s.ogt := rfl
@[simp] theorem onPgd_rcc : (s.onPgd f).rcc = s.rcc := rfl
end onPgd

section onCre
variable (f : Capture → Capture) (s : State)
@[simp] theorem onCre_pending : (s.onCre f).pending = s.pending := rfl
@[simp] theorem onCre_porst : (s.onCre f).porst = s.porst := rfl
@[simp] theorem onCre_li : (s.onCre f).li = s.li := rfl
@[simp] theorem onCre_pds : (s.onCre f).pds = s.pds := rfl
@[simp] theorem onCre_ckm : (s.onCre f).ckm = s.ckm := rfl
@[simp] theorem onCre_stk : (s.onCre f).stk = s.stk := rfl
@[simp] theorem onCre_dlu : (s.onCre f).dlu = s.dlu := rfl
@[simp] theorem onCre_pgd : (s.onCre f).pgd = s.pgd := rfl
@[simp] theorem onCre_cre : (s.onCre f).cre = f s.cre := rfl
@[simp] theorem onCre_ogt : (s.onCre f).ogt = s.ogt := rfl
@[simp] theorem onCre_rcc : (s.onCre f).rcc = s.rcc := rfl
end onCre

section onOgt
variable (f : Gate → Gate) (s : State)
@[simp] theorem onOgt_pending : (s.onOgt f).pending = s.pending := rfl
@[simp] theorem onOgt_porst : (s.onOgt f).porst = s.porst := rfl
@[simp] theorem onOgt_li : (s.onOgt f).li = s.li := rfl
@[simp] theorem onOgt_pds : (s.onOgt f).pds = s.pds := rfl
@[simp] theorem onOgt_ckm : (s.onOgt f).ckm = s.ckm := rfl
@[simp] theorem onOgt_stk : (s.onOgt f).stk = s.stk := rfl
@[simp] theorem onOgt_dlu : (s.onOgt f).dlu = s.dlu := rfl
@[simp] theorem onOgt_pgd : (s.onOgt f).pgd = s.pgd := rfl
@[simp] theorem onOgt_cre : (s.onOgt f).cre = s.cre := rfl
@[simp] theorem onOgt_ogt : (s.onOgt f).ogt = f s.ogt := rfl
@[simp] theorem onOgt_rcc : (s.onOgt f).rcc = s.rcc := rfl
end onOgt

section onRcc
variable (f : Recovery → Recovery) (s : State)
@[simp] theorem onRcc_pending : (s.onRcc f).pending = s.pending := rfl
@[simp] theorem onRcc_porst : (s.onRcc f).porst = s.porst := rfl
@[simp] theorem onRcc_li : (s.onRcc f).li = s.li := rfl
@[simp] theorem onRcc_pds : (s.onRcc f).pds = s.pds := rfl
@[simp] theorem onRcc_ckm : (s.onRcc f).ckm = s.ckm := rfl
@[simp] theorem onRcc_stk : (s.onRcc f).stk = s.stk := rfl
@[simp] theorem onRcc_dlu : (s.onRcc f).dlu = s.dlu := rfl
@[simp] theorem onRcc_pgd : (s.onRcc f).pgd = s.pgd := rfl
@[simp] theorem onRcc_cre : (s.onRcc f).cre = s.cre := rfl
@[simp] theorem onRcc_ogt : (s.onRcc f).ogt = s.ogt := rfl
@[simp] theorem onRcc_rcc : (s.onRcc f).rcc = f s.rcc := rfl
end onRcc

/-! ## One entry of a fixed table -/

@[simp] theorem upd_same {α : Type} {n : Nat} (v : Vector α n) (i : Fin n) (f : α → α) : (upd v i f)[i] = f v[i] := by
  simp [upd]

theorem upd_other {α : Type} {n : Nat} (v : Vector α n) {i j : Fin n} (f : α → α) (h : i ≠ j) :
    (upd v i f)[j] = v[j] := by
  have : i.val ≠ j.val := fun e => h (Fin.ext e)
  simp [upd, this]

/-! ## One line of a group -/

theorem setLine_getLsbD {n : Nat} (v : BitVec n) (i j : Fin n) (b : Bool) :
    (setLine v i b).getLsbD j.val = if i = j then b else v.getLsbD j.val := by
  have hj := j.isLt
  by_cases h : i = j
  · subst h; cases b <;> simp [setLine]
  · have h' : i.val ≠ j.val := fun e => h (Fin.ext e)
    have hlt : j.val < i.val ∨ 0 < j.val - i.val := by omega
    cases b <;> simp [setLine, h] <;> intros <;> omega

end Sys2Proof.Machine
end

