-- ==== Sys2Proof/Laws/Closed.lean ====
section
/-!
SUPPORT. Laws/Closed.lean: what the shared operations can touch, said once. A property of states that every change of the
tracker, the bins, the directory, the gate and the recovery tables keeps, and that posting and the placing or withdrawing of
a HALT, DIVERT, RUNOUT or FEED keep, is kept by each shared operation. It follows that none of them touches the queue of
commands, PORST, the path description, the monitor or the capture engine, and that the link changes by those five alone.
-/
namespace Sys2Proof.Machine

/-- A property kept by the changes the shared operations are made of. -/
structure Closed (P : State → Prop) : Prop where
  stk : ∀ f s, P s → P (State.onStk f s)
  dlu : ∀ f s, P s → P (State.onDlu f s)
  pgd : ∀ f s, P s → P (State.onPgd f s)
  ogt : ∀ f s, P s → P (State.onOgt f s)
  rcc : ∀ f s, P s → P (State.onRcc f s)
  post : ∀ n s, P s → P (Machine.post n s)
  halt : ∀ s, P s → P (State.onLi Link.placeHalt s)
  divert : ∀ t s, P s → P (State.onLi (Link.placeDivert t) s)
  runout : ∀ r s, P s → P (State.onLi (Link.placeRunout r) s)
  frames : ∀ s, P s → P (withdrawFrames s)
  feed : ∀ s, P s → P (State.onLi (fun l => { l with feedPlace := none }) s)

variable {P : State → Prop}

theorem kept_foldl {α : Type} {g : State → α → State} (hg : ∀ s a, P s → P (g s a)) (l : List α) {s : State}
    (hs : P s) : P (l.foldl g s) := by
  induction l generalizing s with
  | nil => exact hs
  | cons a l ih => exact ih (hg s a hs)

namespace Closed
variable (h : Closed P)
include h

/-! ### The watch over the gate head -/

theorem raiseTrayEmpty (t : Tray) {s : State} (hs : P s) : P (raiseTrayEmpty t s) := by
  unfold Machine.raiseTrayEmpty; split
  · exact h.post _ _ (h.rcc _ _ hs)
  · exact h.rcc _ _ hs

theorem trayTest {s : State} (hs : P s) : P (trayTest s) := by
  unfold Machine.trayTest
  split
  · exact hs
  · dsimp only; split
    · exact h.ogt _ _ (h.raiseTrayEmpty _ hs)
    · exact hs

theorem resendTest {s : State} (hs : P s) : P (resendTest s) := by
  unfold Machine.resendTest
  split
  · exact hs
  · dsimp only; split
    · exact hs
    · exact h.ogt _ _ (h.post _ _ hs)

theorem judgeHead {s : State} (hs : P s) : P (judgeHead s) := h.resendTest (h.trayTest hs)

theorem watchGate (before : State) {s : State} (hs : P s) : P (watchGate before s) := by
  unfold Machine.watchGate; dsimp only
  repeat' split
  · exact hs
  · exact h.judgeHead (h.ogt _ _ hs)
  · exact h.ogt _ _ hs

/-- A watched change keeps what the change keeps. -/
theorem watched {f : State → State} (hf : ∀ s, P s → P (f s)) {s : State} (hs : P s) : P (watched f s) :=
  h.watchGate s (hf s hs)

/-! ### The Page Directory -/

theorem releaseSet (t : SetTag) {s : State} (hs : P s) : P (releaseSet t s) := h.pgd _ _ hs

theorem loseProtection (t : SetTag) {s : State} (hs : P s) : P (loseProtection t s) := by
  unfold Machine.loseProtection; split
  · split
    · exact h.releaseSet _ (h.dlu _ _ hs)
    · exact hs
  · exact hs

theorem reportDiscard (k : PageKey) {s : State} (hs : P s) : P (reportDiscard k s) := by
  unfold Machine.reportDiscard; split
  · split
    · exact h.ogt _ _ hs
    · exact hs
  · exact hs

theorem discardBand (k : PageKey) (i : Nat) (r : DiscardReason) {s : State} (hs : P s) : P (discardBand k i r s) :=
  h.pgd _ _ (h.post _ _ hs)

theorem discardDuplicate (k : PageKey) (i : Nat) {s : State} (hs : P s) : P (discardDuplicate k i s) :=
  h.discardBand k i _ hs

theorem discardGap (k : PageKey) (i : Nat) {s : State} (hs : P s) : P (discardGap k i s) :=
  h.reportDiscard k (h.discardBand k i _ hs)

theorem discardFull (k : PageKey) (i : Nat) {s : State} (hs : P s) : P (discardFull k i s) :=
  h.reportDiscard k (h.discardBand k i _ hs)

theorem fillWay (k : PageKey) (i : Nat) {s : State} (hs : P s) : P (fillWay k i s) := by
  have h1 := h.watched (fun s => h.pgd (fun d => ((d.dropWay i).putWay i (freshLine s k)).touch i) s) hs
  unfold Machine.fillWay; dsimp only; split
  · split
    · exact h.loseProtection _ h1
    · exact h1
  · exact h1

theorem displacePool (k : PageKey) {s : State} (hs : P s) : P (displacePool k s) := by
  unfold Machine.displacePool; split
  · split
    · exact h.watched (h.pgd _) hs
    · exact hs
  · exact hs

theorem takeBlock (k : PageKey) (i index len : Nat) {s : State} (hs : P s) : P (takeBlock k i index len s).1 := by
  have h1 := h.displacePool k hs
  unfold Machine.takeBlock; dsimp only; split
  · dsimp only; exact h.pgd _ _ h1
  · exact h.watched (h.pgd _) (h.discardFull k index h1)

theorem placeByTable (k : PageKey) (index : Nat) (final : Bool) (len : Nat) {s : State} (hs : P s) :
    P (placeByTable k index final len s).1 := by
  unfold Machine.placeByTable
  repeat' split
  all_goals first
    | with_reducible exact h.takeBlock k _ index len (h.fillWay k _ hs)
    | with_reducible exact h.takeBlock k _ index len hs
    | with_reducible exact h.discardFull k index hs
    | with_reducible exact h.discardGap k index hs
    | with_reducible exact h.discardGap k index (h.pgd _ _ hs)
    | with_reducible exact h.discardDuplicate k index hs

theorem place (k : PageKey) (index : Nat) (final : Bool) (len : Nat) {s : State} (hs : P s) :
    P (place k index final len s).1 := by
  unfold Machine.place; split
  · exact hs
  · exact h.placeByTable k index final len (h.pgd _ _ hs)

theorem writeCompleted (k : PageKey) (final : Bool) {s : State} (hs : P s) : P (writeCompleted k final s) := by
  unfold Machine.writeCompleted; split
  · split
    · exact h.pgd _ _ hs
    · exact hs
  · exact hs

theorem pinLine (i : Nat) (l : Line) {s : State} (hs : P s) : P (pinLine i l s) := h.pgd _ _ hs

theorem unpinAbandoned (k : PageKey) {s : State} (hs : P s) : P (unpinAbandoned k s) := by
  unfold Machine.unpinAbandoned; split
  · split <;> exact h.pgd _ _ hs
  · exact hs

theorem imagingDoneLine (k : PageKey) {s : State} (hs : P s) : P (imagingDoneLine k s) := by
  unfold Machine.imagingDoneLine; dsimp only
  repeat' split
  all_goals first
    | with_reducible exact h.pgd _ _ hs
    | with_reducible exact hs

theorem claimLine (q : Seq) (k : PageKey) {s : State} (hs : P s) : P (claimLine q k s) := by
  unfold Machine.claimLine
  repeat' split
  all_goals first
    | with_reducible exact h.pgd _ _ hs
    | with_reducible exact hs

theorem releaseOwner (q : Seq) {s : State} (hs : P s) : P (releaseOwner q s) := h.pgd _ _ hs

theorem compileOwner (q : Seq) (t : SetTag) (g : Bool) {s : State} (hs : P s) : P (compileOwner q t g s) := h.pgd _ _ hs

theorem relockSet (t : SetTag) {s : State} (hs : P s) : P (relockSet t s) := h.pgd _ _ hs

theorem relockLine (q : Seq) (k : PageKey) {s : State} (hs : P s) : P (relockLine q k s) := by
  unfold Machine.relockLine
  repeat' split
  all_goals first
    | with_reducible exact h.pgd _ _ hs
    | with_reducible exact hs

theorem invalidateOwner (q : Seq) {s : State} (hs : P s) : P (invalidateOwner q s) := h.pgd _ _ hs

theorem walkInvalidate (i : Nat) (l : Line) (w : Walk) {s : State} (hs : P s) : P (walkInvalidate i l w s).2 := by
  unfold Machine.walkInvalidate; dsimp only
  repeat' split
  all_goals first
    | with_reducible exact h.post _ _ (h.pgd _ _ hs)
    | with_reducible exact h.pgd _ _ hs

theorem walkWays (is : List Nat) (w : Walk) (t : Option SetTag) {s : State} (hs : P s) :
    P (walkWays is w t s).2.2 := by
  induction is generalizing w t s with
  | nil => exact hs
  | cons i is ih =>
    unfold Machine.walkWays
    split
    · dsimp only; split
      · exact ih _ _ (h.walkInvalidate _ _ _ hs)
      · exact ih _ _ hs
    · exact ih _ _ hs

theorem walkEnd (w : Walk) {s : State} (hs : P s) : P (walkEnd w s) := by
  unfold Machine.walkEnd; dsimp only; split
  · exact h.pgd _ _ (h.post _ _ (h.post _ _ hs))
  · exact h.pgd _ _ (h.post _ _ hs)

theorem walkStep (w : Walk) {s : State} (hs : P s) : P (walkStep w s) := by
  have hw := h.walkWays (List.range' (w.next * Config.ways) Config.ways) w none hs
  unfold Machine.walkStep; dsimp only
  repeat' split
  all_goals first
    | with_reducible exact h.walkEnd _ (h.loseProtection _ hw)
    | with_reducible exact h.walkEnd _ hw
    | with_reducible exact h.pgd _ _ (h.loseProtection _ hw)
    | with_reducible exact h.pgd _ _ hw

/-! ### The Order Gate -/

theorem onJob (j : JobSlot) (f : Job → Job) {s : State} (hs : P s) : P (onJob j f s) := h.ogt _ _ hs

theorem checkDone (j : JobSlot) {s : State} (hs : P s) : P (checkDone j s) := by
  unfold Machine.checkDone; dsimp only; split
  · exact h.onJob _ _ (h.post _ _ hs)
  · exact hs

theorem reissue (e : Entry) {s : State} (hs : P s) : P (reissue e s) := h.onJob _ _ (h.ogt _ _ hs)

theorem dropSheet (t : Tag) {s : State} (hs : P s) : P (dropSheet t s) := h.stk _ _ hs

theorem returnEntry (r : Sheet) {s : State} (hs : P s) : P (returnEntry r s) := by
  unfold Machine.returnEntry; dsimp only; split
  · exact h.reissue _ hs
  · exact h.onJob _ _ (h.ogt _ _ hs)

theorem withdrawAdmission {s : State} (hs : P s) : P (withdrawAdmission s) := by
  unfold Machine.withdrawAdmission; dsimp only; split
  · exact hs
  · split
    · exact h.ogt _ _ (h.returnEntry _ (h.onJob _ _ (h.dropSheet _ (h.feed _ hs))))
    · exact h.ogt _ _ (h.feed _ hs)

/-! ### The Sheet Tracker -/

theorem updSheet (t : Tag) (f : Sheet → Sheet) {s : State} (hs : P s) : P (updSheet t f s) := h.stk _ _ hs

theorem clearInterlock (t : Tag) {s : State} (hs : P s) : P (clearInterlock t s) := h.ogt _ _ hs

theorem reissueOrInvalidate (e : Ending) (r : Sheet) {s : State} (hs : P s) : P (reissueOrInvalidate e r s) := by
  unfold Machine.reissueOrInvalidate
  repeat' split
  all_goals first
    | with_reducible exact hs
    | with_reducible exact h.invalidateOwner _ hs
    | with_reducible exact h.reissue _ hs

theorem endSheet (t : Tag) (e : Ending) {s : State} (hs : P s) : P (endSheet t e s) := by
  unfold Machine.endSheet; split
  · exact hs
  · exact h.watchGate _ (h.checkDone _ (h.reissueOrInvalidate _ _ (h.clearInterlock _ (h.onJob _ _ (h.dropSheet _ hs)))))

theorem requestHalt {s : State} (hs : P s) : P (requestHalt s) := by
  unfold Machine.requestHalt; split
  · exact h.halt _ (h.stk _ _ hs)
  · exact h.halt _ (h.stk _ _ hs)
  · exact hs
  · exact hs

theorem requestResume {s : State} (hs : P s) : P (requestResume s) := by
  unfold Machine.requestResume; split
  · exact h.stk _ _ hs
  · exact h.stk _ _ hs
  · exact hs
  · exact hs

theorem setDisposition (t : Tag) (d : Disposition) {s : State} (hs : P s) : P (setDisposition t d s) := h.updSheet _ _ hs
theorem claimDivert (rt : Route) (t : Tag) {s : State} (hs : P s) : P (claimDivert rt t s) := h.updSheet _ _ hs
theorem markOutOfOrder (t : Tag) {s : State} (hs : P s) : P (markOutOfOrder t s) := h.updSheet _ _ hs

/-! ### The Delivery Unit -/

theorem onBin (b : Bin) (f : BinRec → BinRec) {s : State} (hs : P s) : P (onBin b f s) := h.dlu _ _ hs
theorem setTimer (b : Bin) (t : Option Nat) {s : State} (hs : P s) : P (setTimer b t s) := h.onBin _ _ hs
theorem restartTimer (b : Bin) {s : State} (hs : P s) : P (restartTimer b s) := h.setTimer _ _ hs
theorem setLastDelivered (b : Bin) (q : Seq) {s : State} (hs : P s) : P (setLastDelivered b q s) := h.onBin _ _ hs

theorem markSuspect (t : Tag) {s : State} (hs : P s) : P (markSuspect t s) := by
  unfold Machine.markSuspect
  repeat' split
  all_goals first
    | with_reducible exact h.setTimer _ _ (h.updSheet _ _ hs)
    | with_reducible exact hs

theorem removeSettling (t : Tag) {s : State} (hs : P s) : P (removeSettling t s) := by
  unfold Machine.removeSettling
  split
  · exact hs
  · dsimp only
    repeat' split
    all_goals first
      | with_reducible exact h.setTimer _ _ (h.endSheet _ _ hs)
      | with_reducible exact h.restartTimer _ (h.endSheet _ _ hs)
      | with_reducible exact h.endSheet _ _ hs

theorem joinSet (b : Bin) (r : Sheet) {s : State} (hs : P s) : P (joinSet b r s) := by
  unfold Machine.joinSet
  split
  · exact h.dlu _ _ hs
  · dsimp only
    repeat' split
    all_goals first
      | with_reducible exact h.dlu _ _ hs
      | with_reducible exact h.loseProtection _ (h.dlu _ _ hs)

theorem deliver (b : Bin) (r : Sheet) {s : State} (hs : P s) : P (deliver b r s) :=
  h.setLastDelivered _ _ (h.releaseOwner _ (h.endSheet _ _ hs))

theorem compile (b : Bin) (r : Sheet) {s : State} (hs : P s) : P (compile b r s) :=
  h.setLastDelivered _ _ (h.compileOwner _ _ _ (h.joinSet _ _ (h.endSheet _ _ hs)))

theorem leaveB (b : Bin) {s : State} (hs : P s) : P (leaveB b s) := by
  unfold Machine.leaveB
  repeat' split
  all_goals first
    | with_reducible exact hs
    | with_reducible exact h.compile _ _ hs
    | with_reducible exact h.deliver _ _ hs

theorem shiftA (b : Bin) {s : State} (hs : P s) : P (shiftA b s) := by
  unfold Machine.shiftA; split
  · exact hs
  · exact h.updSheet _ _ hs

theorem advanceEjection (b : Bin) (t : Tag) {s : State} (hs : P s) : P (advanceEjection b t s) :=
  h.restartTimer _ (h.updSheet _ _ (h.shiftA _ (h.leaveB _ hs)))

theorem advanceExpiry (b : Bin) {s : State} (hs : P s) : P (advanceExpiry b s) := by
  unfold Machine.advanceExpiry; dsimp only; split
  · exact h.setTimer _ _ (h.shiftA _ (h.leaveB _ hs))
  · exact h.restartTimer _ (h.shiftA _ (h.leaveB _ hs))

theorem ejectSet (b : Bin) {s : State} (hs : P s) : P (ejectSet b s) := by
  unfold Machine.ejectSet
  repeat' split
  all_goals first
    | with_reducible exact h.dlu _ _ (h.setLastDelivered _ _ (h.releaseSet _ (h.checkDone _ (h.onJob _ _ hs))))
    | with_reducible exact hs

theorem purgeStage (b : Bin) (st : Stage) {s : State} (hs : P s) : P (purgeStage b st s).1 := by
  unfold Machine.purgeStage; split
  · exact h.removeSettling _ hs
  · exact hs

theorem purgeQueue {s : State} (hs : P s) : P (purgeQueue s).1 := by
  unfold Machine.purgeQueue; split
  · exact h.purgeStage _ _ (h.purgeStage _ _ hs)
  · exact hs

theorem reissueProtected (p : Protected) {s : State} (hs : P s) : P (reissueProtected p s) :=
  h.watched (fun _ hs => h.reissue _ (h.onJob _ _ hs)) hs

theorem purgeSet {s : State} (hs : P s) : P (purgeSet s) := by
  unfold Machine.purgeSet
  repeat' split
  · exact hs
  · exact h.dlu _ _ (h.setLastDelivered _ _ 
      (h.watched (fun _ => h.relockSet _) (kept_foldl (fun s p => h.reissueProtected p) _ hs)))
  · exact h.dlu _ _ (h.post _ _ (h.watched (fun _ => h.releaseSet _) (h.checkDone _ (h.onJob _ _ hs))))

/-! ### The Recovery Controller -/

theorem onIncident (c : IncClass) (f : Incident → Incident) {s : State} (hs : P s) : P (onIncident c f s) :=
  h.rcc _ _ hs

theorem setPhase (c : IncClass) (p : Phase) {s : State} (hs : P s) : P (setPhase c p s) := h.onIncident _ _ hs
theorem setStatus (c : IncClass) (t : IncStatus) {s : State} (hs : P s) : P (setStatus c t s) := h.onIncident _ _ hs

theorem retryTest (m : Misfeed) {s : State} (hs : P s) : P (retryTest m s) := by
  unfold Machine.retryTest
  repeat' split
  all_goals first
    | with_reducible exact h.onIncident _ _ (h.post _ _ (h.ogt _ _ hs))
    | with_reducible exact hs

/-- A closer that keeps the property. -/
abbrev Closer (P : State → Prop) (cl : IncClass → State → State) : Prop := ∀ c s, P s → P (cl c s)

theorem testTrayHold {cl : IncClass → State → State} (hc : Closer P cl) {s : State} (hs : P s) :
    P (testTrayHold cl s) := by
  unfold Machine.testTrayHold; dsimp only; split
  · exact hc _ _ (h.onIncident _ _ hs)
  · exact h.onIncident _ _ hs

theorem enterRetry {cl : IncClass → State → State} (hc : Closer P cl) {s : State} (hs : P s) : P (enterRetry cl s) := by
  unfold Machine.enterRetry; dsimp only
  repeat' split
  all_goals first
    | with_reducible exact hc _ _ (h.onIncident _ _ hs)
    | with_reducible exact hc _ _ (h.onIncident _ _ (h.retryTest _ hs))
    | with_reducible exact h.testTrayHold hc (h.onIncident _ _ hs)
    | with_reducible exact h.testTrayHold hc (h.onIncident _ _ (h.retryTest _ hs))

theorem testSupply {cl : IncClass → State → State} (hc : Closer P cl) {s : State} (hs : P s) : P (testSupply cl s) := by
  have _ := h
  unfold Machine.testSupply; split
  · exact hs
  · exact hc _ _ hs

theorem assessSheets {s : State} (hs : P s) : P (assessSheets s) := by
  unfold Machine.assessSheets; dsimp only; exact h.stk _ _ hs

theorem postJamReport {s : State} (hs : P s) : P (postJamReport s) := by
  unfold Machine.postJamReport; split
  · exact hs
  · exact h.post _ _ hs

theorem enterClearance {s : State} (hs : P s) : P (enterClearance s) := h.post _ _ (h.setPhase _ _ hs)

theorem enterAssess {s : State} (hs : P s) : P (enterAssess s) :=
  h.enterClearance (h.postJamReport (h.assessSheets (h.setPhase _ _ hs)))

theorem enterStop {s : State} (hs : P s) : P (enterStop s) := by
  unfold Machine.enterStop; dsimp only; split
  · exact h.enterAssess (h.frames _ (h.setPhase _ _ hs))
  · exact h.requestHalt (h.frames _ (h.setPhase _ _ hs))

theorem resumeClearance {s : State} (hs : P s) : P (resumeClearance s) := h.enterClearance (h.postJamReport hs)

theorem removeSuspects (l : List (Bin × Stage)) {s : State} (hs : P s) : P (removeSuspects l s).1 := by
  induction l generalizing s with
  | nil => exact hs
  | cons x l ih =>
    obtain ⟨b, st⟩ := x
    unfold Machine.removeSuspects; split
    · exact ih (h.removeSettling _ hs)
    · exact ih hs

theorem postSuspectRequests (l : List (Bin × Tag × Seq)) {s : State} (hs : P s) : P (postSuspectRequests l s) := by
  refine kept_foldl (fun s b hs => ?_) _ hs
  split
  · exact hs
  · exact h.post _ _ hs

theorem purgeCompile {s : State} (hs : P s) : P (purgeCompile s) := by
  unfold Machine.purgeCompile; dsimp only; split
  · exact h.post _ _ (h.purgeSet (h.purgeQueue hs))
  · exact h.purgeSet (h.purgeQueue hs)

theorem relockReissues {s : State} (hs : P s) : P (relockReissues s) :=
  kept_foldl (fun _ _ hs => kept_foldl (fun _ _ hs => h.watched (fun _ => h.relockLine _ _) hs) _ hs) _ hs

theorem rebuildWork {s : State} (hs : P s) : P (rebuildWork s) := by
  unfold Machine.rebuildWork; dsimp only
  have h1 := h.postSuspectRequests (Machine.removeSuspects allStages (Machine.setPhase .jam .rebuild s)).2
    (h.removeSuspects allStages (h.setPhase .jam .rebuild hs))
  split
  · exact h.relockReissues (h.purgeCompile h1)
  · exact h.relockReissues h1

theorem enterOpen {s : State} (hs : P s) : P (enterOpen s) := h.requestHalt (h.rcc _ _ (h.setPhase _ _ hs))

theorem startPhase {cl : IncClass → State → State} (hc : Closer P cl) (c : IncClass) {s : State} (hs : P s) :
    P (startPhase cl c s) := by
  cases c
  · exact h.enterOpen hs
  · exact h.enterStop hs
  · exact h.enterRetry hc hs
  · exact h.testSupply hc hs

theorem resumeJam {cl : IncClass → State → State} (hc : Closer P cl) (p : Phase) {s : State} (hs : P s) :
    P (resumeJam cl p s) := by
  cases p <;> unfold Machine.resumeJam <;> dsimp only
  all_goals first
    | with_reducible exact h.enterStop hs
    | with_reducible exact h.enterAssess hs
    | with_reducible exact h.resumeClearance hs
    | with_reducible exact hc _ _ (h.rebuildWork hs)
    | with_reducible exact hs

theorem resumeMisfeed {cl : IncClass → State → State} (hc : Closer P cl) {s : State} (hs : P s) :
    P (resumeMisfeed cl s) := by
  unfold Machine.resumeMisfeed
  repeat' split
  all_goals first
    | with_reducible exact h.testTrayHold hc hs
    | with_reducible exact h.enterRetry hc hs

theorem resumePhase {cl : IncClass → State → State} (hc : Closer P cl) (c : IncClass) {s : State} (hs : P s) :
    P (resumePhase cl c s) := by
  cases c
  · exact h.enterOpen hs
  · exact h.resumeJam hc _ hs
  · exact h.resumeMisfeed hc hs
  · exact h.testSupply hc hs

theorem activate {cl : IncClass → State → State} (hc : Closer P cl) (c : IncClass) {s : State} (hs : P s) :
    P (activate cl c s) := by
  unfold Machine.activate; split
  · exact h.startPhase hc _ (h.setStatus _ _ hs)
  · exact h.resumePhase hc _ (h.setStatus _ _ (h.rcc _ _ hs))

theorem clearRecord (c : IncClass) {s : State} (hs : P s) : P (clearRecord c s) := h.rcc _ _ hs

theorem resumePath (c : IncClass) {s : State} (hs : P s) : P (resumePath c s) := by
  unfold Machine.resumePath; split
  · exact h.requestResume hs
  · exact hs

theorem closeRecord (fuel : Nat) : Closer P (closeRecord fuel) := by
  induction fuel with
  | zero => intro c s hs; exact hs
  | succ n ih =>
    intro c s hs
    unfold Machine.closeRecord; split
    · exact hs
    · dsimp only; split
      · exact h.resumePath _ (h.activate ih _ (h.post _ _ (h.clearRecord _ hs)))
      · exact h.resumePath _ (h.post _ _ (h.clearRecord _ hs))

theorem close : Closer P close := h.closeRecord 4

theorem preempt (c : IncClass) {s : State} (hs : P s) : P (preempt c s) := by
  unfold Machine.preempt; dsimp only; split
  · exact h.rcc _ _ (h.setStatus _ _ (h.frames _ hs))
  · exact h.rcc _ _ (h.setStatus _ _ hs)

theorem placeRecord (o : Occurrence) {s : State} (hs : P s) : P (placeRecord o s) := by
  unfold Machine.placeRecord; dsimp only; split
  · exact h.post _ _ (h.rcc _ _ (h.preempt _ hs))
  · exact h.post _ _ (h.rcc _ _ hs)

theorem reportOpening (o : Occurrence) (before : State) {s : State} (hs : P s) : P (reportOpening o before s) := by
  unfold Machine.reportOpening; split
  · exact h.watchGate _ (h.withdrawAdmission hs)
  · exact hs

theorem openRecord (o : Occurrence) {s : State} (hs : P s) : P (openRecord o s) := by
  have h1 := h.reportOpening o s (h.placeRecord o hs)
  unfold Machine.openRecord; dsimp only; split
  · exact h.startPhase h.close _ h1
  · exact h1

theorem mergeJam (st : IncStatus) {s : State} (hs : P s) : P (mergeJam st s) := by
  cases st
  · exact hs
  · exact h.enterStop hs
  · exact h.setPhase _ _ hs

theorem mergeSupply (o : Occurrence) (st : IncStatus) {s : State} (hs : P s) : P (mergeSupply o st s) := by
  unfold Machine.mergeSupply; dsimp only
  repeat' split
  all_goals first
    | with_reducible exact h.testSupply h.close (h.onIncident _ _ hs)
    | with_reducible exact h.testSupply h.close hs
    | with_reducible exact h.onIncident _ _ hs
    | with_reducible exact hs

theorem mergeOccurrence (o : Occurrence) (i : Incident) {s : State} (hs : P s) : P (mergeOccurrence o i s) := by
  have h1 := h.onIncident o.cls (mergeRecord o) hs
  unfold Machine.mergeOccurrence; dsimp only
  repeat' split
  · exact h.enterOpen h1
  · exact h.mergeJam _ h1
  · exact h.retryTest _ h1
  · exact h1
  · exact h.mergeSupply _ _ h1

/-- Taking an occurrence keeps the property. -/
theorem raise (o : Occurrence) {s : State} (hs : P s) : P (raise o s) := by
  unfold Machine.raise; repeat' split
  · exact hs
  · exact h.openRecord _ hs
  · exact h.mergeOccurrence _ _ hs

theorem raiseJam (c : Cause) (k : Option Checkpoint) (t : Option Tag) (o : Option Obj) {s : State} (hs : P s) :
    P (raiseJam c k t o s) := h.raise _ hs

theorem raiseSupply (c : Cause) (o : Obj) {s : State} (hs : P s) : P (raiseSupply c o s) := h.raise _ hs
theorem raiseInterlock (c : Cover) {s : State} (hs : P s) : P (raiseInterlock c s) := h.raise _ hs

theorem markExitSuspects (k : Checkpoint) {s : State} (hs : P s) : P (markExitSuspects k s) := by
  refine kept_foldl (fun s b hs => ?_) _ hs
  repeat' split
  all_goals first
    | with_reducible exact h.markSuspect _ hs
    | with_reducible exact hs

theorem raiseAt (c : Cause) (k : Checkpoint) (t : Option Tag) {s : State} (hs : P s) : P (raiseAt c k t s) := by
  unfold Machine.raiseAt; split
  · exact h.raiseJam _ _ _ _ (h.markExitSuspects _ hs)
  · exact h.raiseJam _ _ _ _ hs

theorem supplyReport {s : State} (hs : P s) : P (supplyReport s) := by
  unfold Machine.supplyReport; split
  · exact h.testSupply h.close hs
  · exact hs

theorem trayReadyReport {s : State} (hs : P s) : P (trayReadyReport s) := by
  unfold Machine.trayReadyReport; split
  · exact h.testTrayHold h.close hs
  · exact hs

theorem enterRebuild {s : State} (hs : P s) : P (enterRebuild s) := h.close _ _ (h.rebuildWork hs)

theorem haltedReport {s : State} (hs : P s) : P (haltedReport s) := by
  unfold Machine.haltedReport; repeat' split
  · exact h.enterAssess hs
  · exact h.enterRebuild hs
  · exact hs

theorem runoutCompleteReport {s : State} (hs : P s) : P (runoutCompleteReport s) := by
  unfold Machine.runoutCompleteReport; split
  · exact h.requestHalt (h.onIncident _ _ hs)
  · exact hs

theorem checkRunoutComplete {s : State} (hs : P s) : P (checkRunoutComplete s) := by
  unfold Machine.checkRunoutComplete; split
  · exact h.runoutCompleteReport hs
  · exact hs

theorem markLater (b : Bin) (q : Seq) {s : State} (hs : P s) : P (markLater b q s) :=
  kept_foldl (fun _ _ hs => h.markSuspect _ hs) _ hs

theorem removeStranded (t : Tag) {s : State} (hs : P s) : P (removeStranded t s) := by
  unfold Machine.removeStranded; split
  · exact hs
  · dsimp only; split
    · exact h.endSheet _ _ hs
    · exact h.markLater _ _ (h.endSheet _ _ hs)

theorem removePass (p : Sheet → Bool) {s : State} (hs : P s) : P (removePass p s) :=
  kept_foldl (fun _ _ hs => h.removeStranded _ hs) _ hs

theorem orderSheets (b : Bin) (l : List Sheet) (named : List Tag) {s : State} (hs : P s) :
    P (orderSheets b l s named).1 := by
  induction l generalizing s named with
  | nil => exact hs
  | cons r l ih =>
    unfold Machine.orderSheets
    repeat' split
    · exact ih _ hs
    · exact ih _ (h.setDisposition _ _ hs)
    · exact ih _ hs

theorem orderBins (l : List Bin) (named : List Tag) {s : State} (hs : P s) : P (orderBins l s named).1 := by
  induction l generalizing s named with
  | nil => exact hs
  | cons b l ih => exact ih _ (h.orderSheets _ _ _ hs)

theorem beginRunout {s : State} (hs : P s) : P (beginRunout s) := by
  unfold Machine.beginRunout; split
  · exact h.stk _ _ hs
  · exact hs

theorem enterRunout (named : List Tag) {s : State} (hs : P s) : P (enterRunout named s) :=
  h.runout _ _ (kept_foldl (fun _ _ hs => h.markOutOfOrder _ hs) _ (h.beginRunout (h.onIncident _ _ hs)))

theorem enterDispose {s : State} (hs : P s) : P (enterDispose s) := by
  have h1 := h.removePass (fun r => decide (r.disposition = some .manual)) (h.setPhase .jam .dispose hs)
  have h2 := h.removeSuspects allStages h1
  have h3 := h.removePass (pulled (Machine.removeSuspects allStages (Machine.removePass
    (fun r => decide (r.disposition = some .manual)) (Machine.setPhase .jam .dispose s))).1) h2
  have h4 := h.orderBins (List.finRange 6) [] h3
  unfold Machine.enterDispose; dsimp only; split
  · exact h.enterRunout _ (h.postSuspectRequests _ h4)
  · exact h.enterRebuild (h.postSuspectRequests _ h4)

theorem divertSheet (t : Tag) {s : State} (hs : P s) : P (Machine.divert s t) := by
  unfold Machine.divert
  repeat' split
  all_goals first
    | with_reducible exact h.markOutOfOrder _ hs
    | with_reducible exact h.divert _ _ (h.claimDivert _ _ hs)
    | with_reducible exact hs

theorem absenceReport (r : Sheet) (b : Bin) (c : Bool) {s : State} (hs : P s) : P (absenceReport r b c s) := by
  unfold Machine.absenceReport; dsimp only; split
  · exact h.markLater _ _ (kept_foldl (fun _ _ hs => h.divertSheet _ hs) _ hs)
  · exact hs

end Closed

/-! ## What the shared operations leave alone -/

theorem closed_pending (q : List Instr) : Closed fun s => s.pending = q := by
  constructor <;> intros <;> assumption

theorem closed_porst (b : Bool) : Closed fun s => s.porst = b := by
  constructor <;> intros <;> assumption

theorem closed_pds (p : PathDesc) : Closed fun s => s.pds = p := by
  constructor <;> intros <;> assumption

theorem closed_ckm (m : Monitor) : Closed fun s => s.ckm = m := by
  constructor <;> intros <;> assumption

theorem closed_cre (c : Capture) : Closed fun s => s.cre = c := by
  constructor <;> intros <;> assumption

end Sys2Proof.Machine
end

