-- ==== Sys2Proof/Laws/Memory.lean ====
section
/-!
SUPPORT. Laws/Memory.lean: the sparse tables and the retention DRAM: reading after writing, and the canonical form kept.
-/
namespace Sys2Proof.Machine

section Cells
variable {α : Type}

theorem find_put_same (m : List (Nat × α)) (a : Nat) (v : α) : Cells.find (Cells.put m a v) a = some v := by
  induction m with
  | nil => simp [Cells.put, Cells.find]
  | cons p m ih =>
    obtain ⟨k, w⟩ := p
    by_cases h1 : a < k
    · simp [Cells.put, Cells.find, h1]
    · by_cases h2 : a = k
      · simp [Cells.put, Cells.find, h2]
      · simp [Cells.put, Cells.find, h1, h2, ih]

theorem find_put_other (m : List (Nat × α)) {a b : Nat} (v : α) (h : b ≠ a) :
    Cells.find (Cells.put m a v) b = Cells.find m b := by
  induction m with
  | nil => simp [Cells.put, Cells.find, h]
  | cons p m ih =>
    obtain ⟨k, w⟩ := p
    by_cases h1 : a < k
    · simp [Cells.put, Cells.find, h1, h]
    · by_cases h2 : a = k
      · subst h2; simp [Cells.put, Cells.find, h]
      · simp [Cells.put, Cells.find, h1, h2, ih]

theorem find_erase_other (m : List (Nat × α)) {a b : Nat} (h : b ≠ a) :
    Cells.find (Cells.erase m a) b = Cells.find m b := by
  induction m with
  | nil => rfl
  | cons p m ih =>
    obtain ⟨k, w⟩ := p
    by_cases h1 : a = k
    · subst h1; simp [Cells.erase, Cells.find, h]
    · simp [Cells.erase, Cells.find, h1, ih]

theorem mem_put {m : List (Nat × α)} {a : Nat} {v : α} {p : Nat × α} (h : p ∈ Cells.put m a v) :
    p = (a, v) ∨ p ∈ m := by
  induction m with
  | nil => simpa [Cells.put] using h
  | cons q m ih =>
    obtain ⟨k, w⟩ := q
    by_cases h1 : a < k
    · simpa [Cells.put, h1] using h
    · by_cases h2 : a = k
      · simp only [Cells.put, h2, if_true, lt_irrefl, if_false, List.mem_cons] at h
        rcases h with h | h
        · exact .inl (by rw [h, h2])
        · exact .inr (List.mem_cons_of_mem _ h)
      · simp only [Cells.put, h1, h2, if_false, List.mem_cons] at h
        rcases h with h | h
        · exact .inr (by simp [h])
        · rcases ih h with h | h
          · exact .inl h
          · exact .inr (List.mem_cons_of_mem _ h)

theorem mem_erase {m : List (Nat × α)} {a : Nat} {p : Nat × α} (h : p ∈ Cells.erase m a) : p ∈ m := by
  induction m with
  | nil => exact h
  | cons q m ih =>
    obtain ⟨k, w⟩ := q
    by_cases h1 : a = k
    · simp only [Cells.erase, h1, if_true] at h; exact List.mem_cons_of_mem _ h
    · simp only [Cells.erase, h1, if_false, List.mem_cons] at h
      rcases h with h | h
      · simp [h]
      · exact List.mem_cons_of_mem _ (ih h)

theorem rising_put {m : List (Nat × α)} (h : Cells.Rising m) (a : Nat) (v : α) : Cells.Rising (Cells.put m a v) := by
  induction m with
  | nil => simp [Cells.put, Cells.Rising]
  | cons p m ih =>
    obtain ⟨k, w⟩ := p
    rw [Cells.Rising, List.pairwise_cons] at h
    by_cases h1 : a < k
    · simp only [Cells.put, h1, if_true, Cells.Rising, List.pairwise_cons, List.mem_cons]
      refine ⟨?_, h⟩
      rintro q (rfl | hq)
      · exact h1
      · exact lt_trans h1 (h.1 q hq)
    · by_cases h2 : a = k
      · simp only [Cells.put, h2, lt_irrefl, if_true, if_false, Cells.Rising, List.pairwise_cons]
        exact ⟨h.1, h.2⟩
      · simp only [Cells.put, h1, h2, if_false, Cells.Rising, List.pairwise_cons]
        refine ⟨fun q hq => ?_, ih h.2⟩
        rcases mem_put hq with rfl | hq
        · simp only; omega
        · exact h.1 q hq

theorem rising_erase {m : List (Nat × α)} (h : Cells.Rising m) (a : Nat) : Cells.Rising (Cells.erase m a) := by
  induction m with
  | nil => exact h
  | cons p m ih =>
    obtain ⟨k, w⟩ := p
    rw [Cells.Rising, List.pairwise_cons] at h
    by_cases h1 : a = k
    · simpa [Cells.erase, h1] using h.2
    · simp only [Cells.erase, h1, if_false, Cells.Rising, List.pairwise_cons]
      exact ⟨fun q hq => h.1 q (mem_erase hq), ih h.2⟩

theorem find_none_of_rising {m : List (Nat × α)} {a : Nat} (h : ∀ p ∈ m, a < p.1) : Cells.find m a = none := by
  induction m with
  | nil => rfl
  | cons p m ih =>
    obtain ⟨k, w⟩ := p
    have hk : a < k := h (k, w) (by simp)
    have : a ≠ k := by omega
    simp only [Cells.find, this, if_false]
    exact ih fun q hq => h q (List.mem_cons_of_mem _ hq)

theorem find_erase_same {m : List (Nat × α)} (h : Cells.Rising m) (a : Nat) : Cells.find (Cells.erase m a) a = none := by
  induction m with
  | nil => rfl
  | cons p m ih =>
    obtain ⟨k, w⟩ := p
    rw [Cells.Rising, List.pairwise_cons] at h
    by_cases h1 : a = k
    · subst h1
      simp only [Cells.erase, if_true]
      exact find_none_of_rising fun q hq => h.1 q hq
    · simp only [Cells.erase, h1, if_false, Cells.find]
      exact ih h.2

end Cells

/-! ## The retention DRAM -/

theorem read_write_same {m : List Host.Cell} (h : Memory.wf m) (a : Nat) (v : Byte) :
    Memory.read (Memory.write m a v) a = v := by
  unfold Memory.read Memory.write
  split
  · rename_i hv; rw [find_erase_same h.1, hv]; rfl
  · rw [find_put_same]; rfl

theorem read_write_other (m : List Host.Cell) {a b : Nat} (v : Byte) (h : b ≠ a) :
    Memory.read (Memory.write m a v) b = Memory.read m b := by
  unfold Memory.read Memory.write
  split
  · rw [find_erase_other _ h]
  · rw [find_put_other _ _ h]

theorem wf_write {m : List Host.Cell} (h : Memory.wf m) (a : Nat) (v : Byte) : Memory.wf (Memory.write m a v) := by
  unfold Memory.write
  split
  · exact ⟨rising_erase h.1 a, fun c hc => h.2 c (mem_erase hc)⟩
  · rename_i hv
    refine ⟨rising_put h.1 a v, fun c hc => ?_⟩
    rcases mem_put hc with rfl | hc
    · exact hv
    · exact h.2 c hc

theorem wf_writeRun {m : List Host.Cell} (h : Memory.wf m) (a : Nat) (bs : List Byte) :
    Memory.wf (Memory.writeRun m a bs) := by
  induction bs generalizing m a with
  | nil => exact h
  | cons b bs ih => exact ih (wf_write h a b) (a + 1)

theorem read_writeRun_other {m : List Host.Cell} {a b : Nat} (bs : List Byte) (h : b < a ∨ a + bs.length ≤ b) :
    Memory.read (Memory.writeRun m a bs) b = Memory.read m b := by
  induction bs generalizing m a with
  | nil => rfl
  | cons v bs ih =>
    simp only [List.length_cons] at h
    rw [Memory.writeRun, ih (by omega), read_write_other _ _ (by omega)]

theorem read_writeRun_same {m : List Host.Cell} (hm : Memory.wf m) (a : Nat) (bs : List Byte) (i : Nat) (v : Byte)
    (hv : bs[i]? = some v) : Memory.read (Memory.writeRun m a bs) (a + i) = v := by
  induction bs generalizing m a i with
  | nil => simp at hv
  | cons x bs ih =>
    cases i with
    | zero =>
      simp only [List.getElem?_cons_zero, Option.some.injEq] at hv
      subst hv
      rw [Memory.writeRun, Nat.add_zero, read_writeRun_other _ (by omega)]
      exact read_write_same hm a x
    | succ i =>
      rw [List.getElem?_cons_succ] at hv
      have := ih (wf_write hm a x) (a + 1) i hv
      rw [Memory.writeRun, ← this]; congr 1; omega

/-- A band stored and read back is the band (R118, R122). -/
theorem readRun_writeRun {m : List Host.Cell} (hm : Memory.wf m) (a : Nat) (bs : List Byte) :
    Memory.readRun (Memory.writeRun m a bs) a bs.length = bs := by
  apply List.ext_getElem?
  intro i
  by_cases h : i < bs.length
  · have hv : bs[i]? = some bs[i] := List.getElem?_eq_getElem h
    simp [Memory.readRun, h, read_writeRun_same hm a bs i _ hv]
  · simp [Memory.readRun, Nat.le_of_not_lt h]

theorem wf_reset : Memory.wf State.reset.cre.dram := by
  constructor
  · exact List.Pairwise.nil
  · intro c hc; simp [State.reset, Capture.reset] at hc

end Sys2Proof.Machine
end

