-- ==== Sys2Proof/Laws/Recovery.lean ====
section
/-!
SUPPORT. Laws/Recovery.lean: which record acts next, and the order in which the bin order rule and a divert take the sheets of
a bin: `bySeq` answers the one arrangement by strictly rising sequences.
-/
namespace Sys2Proof.Machine

/-! ## The next record (R153) -/

theorem level_injective {a b : IncClass} (h : a.level = b.level) : a = b := by
  cases a <;> cases b <;> simp_all [IncClass.level]

/-- The highest-priority PENDING record is the PENDING one of the lowest level. -/
theorem firstPending_iff (r : Recovery) (d : IncClass) : r.firstPending = some d ↔
    r.statusOf d = some .pending ∧ ∀ e, r.statusOf e = some .pending → d.level ≤ e.level := by
  have lowest : ∀ x, r.firstPending = some x →
      r.statusOf x = some .pending ∧ ∀ e, r.statusOf e = some .pending → x.level ≤ e.level := by
    intro x h
    refine ⟨by simpa using List.find?_some h, fun e he => ?_⟩
    simp only [Recovery.firstPending, IncClass.all, List.find?] at h
    by_cases h0 : r.statusOf .interlock = some .pending <;> by_cases h1 : r.statusOf .jam = some .pending <;>
      by_cases h2 : r.statusOf .misfeed = some .pending <;> by_cases h3 : r.statusOf .supply = some .pending <;>
      simp [h0, h1, h2, h3] at h <;> subst h <;> cases e <;> simp_all [IncClass.level]
  refine ⟨lowest d, fun hd => ?_⟩
  cases hx : r.firstPending with
  | none =>
    simp only [Recovery.firstPending, List.find?_eq_none] at hx
    exact absurd hd.1 (by simpa using hx d (by cases d <;> simp [IncClass.all]))
  | some x =>
    have hl := lowest x hx
    rw [level_injective (Nat.le_antisymm (hl.2 d hd.1) (hd.2 x hl.1))]

/-! ## Sheets in increasing sequence (R172, R175) -/

theorem insertSheet_perm (r : Sheet) (l : List Sheet) : (insertSheet r l).Perm (r :: l) := by
  induction l with
  | nil => exact .refl _
  | cons x xs ih =>
    unfold insertSheet
    split
    · exact .refl _
    · exact (ih.cons x).trans (.swap _ _ _)

theorem bySeq_perm (l : List Sheet) : (bySeq l).Perm l := by
  induction l with
  | nil => exact .refl _
  | cons x xs ih => exact (insertSheet_perm x _).trans (ih.cons x)

theorem insertSheet_sorted (r : Sheet) {l : List Sheet} (h : l.Pairwise fun x y => x.seq ≤ y.seq) :
    (insertSheet r l).Pairwise fun x y => x.seq ≤ y.seq := by
  induction l with
  | nil => exact List.pairwise_singleton _ _
  | cons x xs ih =>
    unfold insertSheet
    rw [List.pairwise_cons] at h
    split
    · rename_i hx
      refine List.pairwise_cons.2 ⟨fun y hy => ?_, List.pairwise_cons.2 h⟩
      rcases List.mem_cons.1 hy with rfl | hy
      · exact Nat.le_of_lt hx
      · exact Nat.le_trans (Nat.le_of_lt hx) (h.1 y hy)
    · rename_i hx
      refine List.pairwise_cons.2 ⟨fun y hy => ?_, ih h.2⟩
      rcases List.mem_cons.1 ((insertSheet_perm r xs).mem_iff.1 hy) with rfl | hy
      · exact Nat.not_lt.1 hx
      · exact h.1 y hy

theorem bySeq_sorted (l : List Sheet) : (bySeq l).Pairwise fun x y => x.seq ≤ y.seq := by
  induction l with
  | nil => exact .nil
  | cons x xs ih => exact insertSheet_sorted x ih

/-- An arrangement by strictly rising sequences is the one `bySeq` answers. -/
theorem bySeq_eq {l m : List Sheet} (hp : m.Perm l) (hs : m.Pairwise fun x y => x.seq < y.seq) : bySeq l = m := by
  have h1 : (bySeq l).Perm m := (bySeq_perm l).trans hp.symm
  have hn : ((bySeq l).map (·.seq)).Nodup :=
    (h1.map _).nodup_iff.2 (List.pairwise_map.2 (hs.imp fun h => Nat.ne_of_lt h))
  have h2 : (bySeq l).Pairwise fun x y => x.seq < y.seq :=
    ((bySeq_sorted l).and (List.pairwise_map.1 hn)).imp fun h => Nat.lt_of_le_of_ne h.1 h.2
  exact h1.eq_of_pairwise (fun a b _ _ h h' => absurd h (Nat.lt_asymm h')) h2 hs

end Sys2Proof.Machine
end

