-- ==== Sys2Proof/Laws/Watch.lean ====
section
/-!
SUPPORT. Laws/Watch.lean: everything the watch over the gate head can do after an event: marks, one SUPPLY record, notices,
and nothing else.
-/
namespace Sys2Proof.Machine

/-- An entry without its resend-requested mark. -/
def Entry.unmarked (e : Entry) : Entry := { e with resend := false }

/-- What a link keeps while notices are posted: all but the notice queue, its counter and flag, and a U-port transmitter or
reply place that was free to begin or to be begun. -/
structure LinkKept (l m : Link) : Prop where
  fifo : m.fifo = l.fifo
  upward : m.upward = l.upward
  checkCount : m.checkCount = l.checkCount
  formatCount : m.formatCount = l.formatCount
  overrunCount : m.overrunCount = l.overrunCount
  haltPlace : m.haltPlace = l.haltPlace
  divertQueue : m.divertQueue = l.divertQueue
  runoutPlace : m.runoutPlace = l.runoutPlace
  bandoutPlace : m.bandoutPlace = l.bandoutPlace
  feedPlace : m.feedPlace = l.feedPlace
  engcmdPlace : m.engcmdPlace = l.engcmdPlace
  eTx : m.eTx = l.eTx
  busy : l.uTx.isSome → m.uTx = l.uTx ∧ m.reply = l.reply

theorem LinkKept.refl (l : Link) : LinkKept l l := by constructor <;> simp

theorem LinkKept.trans {l m n : Link} (h : LinkKept l m) (k : LinkKept m n) : LinkKept l n := by
  constructor
  case busy =>
    intro hb
    have h1 := h.busy hb
    have h2 := k.busy (by rw [h1.1]; exact hb)
    exact ⟨h2.1.trans h1.1, h2.2.trans h1.2⟩
  · exact k.fifo.trans h.fifo
  · exact k.upward.trans h.upward
  · exact k.checkCount.trans h.checkCount
  · exact k.formatCount.trans h.formatCount
  · exact k.overrunCount.trans h.overrunCount
  · exact k.haltPlace.trans h.haltPlace
  · exact k.divertQueue.trans h.divertQueue
  · exact k.runoutPlace.trans h.runoutPlace
  · exact k.bandoutPlace.trans h.bandoutPlace
  · exact k.feedPlace.trans h.feedPlace
  · exact k.engcmdPlace.trans h.engcmdPlace
  · exact k.eTx.trans h.eTx

theorem post_kept (n : Notice) (l : Link) : LinkKept l (Link.post n l) := by
  unfold Link.post
  dsimp only
  split
  · cases hu : l.uTx <;> cases hr : l.reply <;> cases hn : l.notices <;>
      (constructor <;> simp [Link.startU, hu, hr])
  · constructor <;> simp

/-- Posting counts the notice number (R10). -/
theorem post_counter (n : Notice) (l : Link) : (Link.post n l).noticeCounter = l.noticeCounter + 1 := by
  unfold Link.post
  dsimp only
  split
  · cases hu : l.uTx <;> cases hr : l.reply <;> cases hn : l.notices <;> simp [Link.startU]
  · rfl

/-- Everything the watch leaves as it was. -/
structure Watched (s t : State) : Prop where
  pending : t.pending = s.pending
  porst : t.porst = s.porst
  pds : t.pds = s.pds
  ckm : t.ckm = s.ckm
  stk : t.stk = s.stk
  dlu : t.dlu = s.dlu
  pgd : t.pgd = s.pgd
  cre : t.cre = s.cre
  jobs : t.ogt.jobs = s.ogt.jobs
  seqCounter : t.ogt.seqCounter = s.ogt.seqCounter
  tagCounter : t.ogt.tagCounter = s.ogt.tagCounter
  compileSet : t.ogt.compileSet = s.ogt.compileSet
  interlock : t.ogt.interlock = s.ogt.interlock
  admitOrigin : t.ogt.admitOrigin = s.ogt.admitOrigin
  trays : ∀ i : Tray, t.ogt.trays[i].empty = s.ogt.trays[i].empty ∧ t.ogt.trays[i].held = s.ogt.trays[i].held
  orq : t.ogt.orq.map Entry.unmarked = s.ogt.orq.map Entry.unmarked
  ril : t.ogt.ril.map Entry.unmarked = s.ogt.ril.map Entry.unmarked
  recInterlock : t.rcc.interlock = s.rcc.interlock
  recJam : t.rcc.jam = s.rcc.jam
  recMisfeed : t.rcc.misfeed = s.rcc.misfeed
  stack : t.rcc.stack = s.rcc.stack
  coverTimer : t.rcc.coverTimer = s.rcc.coverTimer
  li : LinkKept s.li t.li

theorem Watched.refl (s : State) : Watched s s := by
  constructor <;> first | rfl | exact LinkKept.refl _ | (intro i; exact ⟨rfl, rfl⟩)

theorem Watched.trans {s t u : State} (h : Watched s t) (k : Watched t u) : Watched s u := by
  constructor
  case trays => intro i; exact ⟨(k.trays i).1.trans (h.trays i).1, (k.trays i).2.trans (h.trays i).2⟩
  case li => exact h.li.trans k.li
  · exact k.pending.trans h.pending
  · exact k.porst.trans h.porst
  · exact k.pds.trans h.pds
  · exact k.ckm.trans h.ckm
  · exact k.stk.trans h.stk
  · exact k.dlu.trans h.dlu
  · exact k.pgd.trans h.pgd
  · exact k.cre.trans h.cre
  · exact k.jobs.trans h.jobs
  · exact k.seqCounter.trans h.seqCounter
  · exact k.tagCounter.trans h.tagCounter
  · exact k.compileSet.trans h.compileSet
  · exact k.interlock.trans h.interlock
  · exact k.admitOrigin.trans h.admitOrigin
  · exact k.orq.trans h.orq
  · exact k.ril.trans h.ril
  · exact k.recInterlock.trans h.recInterlock
  · exact k.recJam.trans h.recJam
  · exact k.recMisfeed.trans h.recMisfeed
  · exact k.stack.trans h.stack
  · exact k.coverTimer.trans h.coverTimer

theorem post_watched (n : Notice) (s : State) : Watched s (post n s) := by
  constructor <;> first | rfl | exact post_kept _ _ | (intro i; exact ⟨rfl, rfl⟩)

/-- A change of the SUPPLY record alone. -/
theorem onSupply_watched (r : Recovery → Option Incident) (s : State) :
    Watched s (s.onRcc fun x => { x with supply := r x }) := by
  constructor <;> first | rfl | exact LinkKept.refl _ | (intro i; exact ⟨rfl, rfl⟩)

theorem level_le_supply (a : IncClass) : ¬ IncClass.supply.level < a.level := by cases a <;> decide

/-- A SUPPLY record never preempts (R150). -/
theorem preemptedBy_supply (r : Recovery) : r.preemptedBy .supply = none := by
  unfold Recovery.preemptedBy
  cases r.active with
  | none => rfl
  | some a => simp [level_le_supply]

/-- An ACTIVE SUPPLY record whose hold list names an empty tray does not close (R159). -/
theorem testSupply_lacking (cl : IncClass → State → State) {s : State} {i : Incident} {t : Tray}
    (hi : s.rcc.supply = some i) (ht : .tray t ∈ i.hold) (he : s.ogt.trays[t].empty = true) : testSupply cl s = s := by
  have : (holdList .supply s).any (stillLacking s) = true := by
    rw [List.any_eq_true]
    exact ⟨.tray t, by simpa [holdList, Recovery.get, hi] using ht, he⟩
  simp [testSupply, this]

theorem joinHold_mem (o : Obj) (i : Incident) : o ∈ (joinHold o i).hold := by
  unfold joinHold
  split
  · rename_i hc; simpa using hc
  · simp

/-- In RUNNING the tray test's occurrence is one taken as any other (R149 to R151): what it opens or merges into does not
close, since the tray is empty. -/
theorem raiseSupply_trayEmpty (t : Tray) {s : State} (hm : s.pds.mode = .running) (he : s.ogt.trays[t].empty = true) :
    raiseSupply .trayEmpty (.tray t) s = raiseTrayEmpty t s := by
  unfold raiseSupply raise
  rw [if_neg (by simp [hm])]
  unfold raiseTrayEmpty
  cases hr : s.rcc.supply with
  | none =>
    simp only [Recovery.get, hr]
    unfold openRecord reportOpening placeRecord
    simp only [preemptedBy_supply, IncClass.holdsPath, Bool.false_eq_true, if_false]
    split
    · exact testSupply_lacking close (i := fillRecord (trayOccurrence t) (s.rcc.statusFor .supply)) rfl (by simp [fillRecord,
        trayOccurrence]) he
    · rfl
  | some i =>
    simp only [Recovery.get, hr]
    unfold mergeOccurrence
    simp only [mergeSupply]
    have e : onIncident .supply (joinHold (.tray t)) (onIncident .supply (mergeRecord (trayOccurrence t)) s) =
        s.onRcc fun r => { r with supply := some (joinHold (.tray t) (mergeRecord (trayOccurrence t) i)) } := by
      simp only [onIncident, State.onRcc, Recovery.get, Recovery.set, hr, Option.map_some]
    change (if i.status = .active then testSupply close
      (onIncident .supply (joinHold (.tray t)) (onIncident .supply (mergeRecord (trayOccurrence t)) s))
      else onIncident .supply (joinHold (.tray t)) (onIncident .supply (mergeRecord (trayOccurrence t)) s)) = _
    rw [e]
    split
    · exact testSupply_lacking close rfl (joinHold_mem _ _) he
    · rfl

/-- The SUPPLY occurrence of an empty tray changes the SUPPLY record and posts at most one notice. -/
theorem raiseTrayEmpty_watched (t : Tray) (s : State) : Watched s (raiseTrayEmpty t s) := by
  unfold raiseTrayEmpty
  split
  · exact (onSupply_watched (fun _ => some _) s).trans (post_watched _ _)
  · exact onSupply_watched (fun _ => some _) s

theorem trayTest_watched (s : State) : Watched s (trayTest s) := by
  unfold trayTest
  split
  · exact Watched.refl s
  · dsimp only
    split
    · rename_i e _ _
      refine (raiseTrayEmpty_watched (s.route e.snap.route).tray s).trans ?_
      constructor
      case trays =>
        intro i
        simp only [onOgt_ogt]
        by_cases hi : (s.route e.snap.route).tray = i
        · subst hi; rw [upd_same]; exact ⟨rfl, rfl⟩
        · rw [upd_other _ _ hi]; exact ⟨rfl, rfl⟩
      all_goals first | rfl | exact LinkKept.refl _
    · exact Watched.refl s

theorem setHeadMark_unmarked (g : Gate) :
    g.setHeadMark.orq.map Entry.unmarked = g.orq.map Entry.unmarked ∧
      g.setHeadMark.ril.map Entry.unmarked = g.ril.map Entry.unmarked := by
  unfold Gate.setHeadMark
  split <;> simp_all [Entry.unmarked]

theorem setHeadMark_rest (g : Gate) : g.setHeadMark = { g with orq := g.setHeadMark.orq, ril := g.setHeadMark.ril } := by
  unfold Gate.setHeadMark
  split <;> rfl

theorem setHeadMark_watched (s : State) : Watched s (s.onOgt Gate.setHeadMark) := by
  have h := setHeadMark_unmarked s.ogt
  have e : (s.onOgt Gate.setHeadMark).ogt = _ := setHeadMark_rest s.ogt
  constructor
  case orq => exact h.1
  case ril => exact h.2
  case li => exact LinkKept.refl _
  case trays =>
    intro i
    have et : (s.onOgt Gate.setHeadMark).ogt.trays = s.ogt.trays := by have x := congrArg Gate.trays e; exact x
    rw [et]; exact ⟨rfl, rfl⟩
  case jobs => have x := congrArg Gate.jobs e; exact x
  case seqCounter => have x := congrArg Gate.seqCounter e; exact x
  case tagCounter => have x := congrArg Gate.tagCounter e; exact x
  case compileSet => have x := congrArg Gate.compileSet e; exact x
  case interlock => have x := congrArg Gate.interlock e; exact x
  case admitOrigin => have x := congrArg Gate.admitOrigin e; exact x
  all_goals rfl

theorem resendTest_watched (s : State) : Watched s (resendTest s) := by
  unfold resendTest
  split
  · exact Watched.refl s
  · dsimp only
    split
    · exact Watched.refl s
    · exact (post_watched _ s).trans (setHeadMark_watched _)

theorem dropMarks_watched (s : State) : Watched s (s.onOgt Gate.dropMarks) := by
  constructor
  case orq =>
    simp only [onOgt_ogt, Gate.dropMarks, List.map_map]
    congr 1; funext e; simp only [Function.comp, Entry.unmarked]; split <;> rfl
  case ril =>
    simp only [onOgt_ogt, Gate.dropMarks, List.map_map]
    congr 1; funext e; simp only [Function.comp, Entry.unmarked]; split <;> rfl
  all_goals first
    | rfl
    | exact LinkKept.refl _
    | (intro i; exact ⟨rfl, rfl⟩)

/-- Everything the watch after an event can do. -/
theorem watchGate_watched (before s : State) : Watched s (watchGate before s) := by
  unfold watchGate
  dsimp only
  repeat' split
  · exact Watched.refl s
  · exact (dropMarks_watched s).trans ((trayTest_watched _).trans (resendTest_watched _))
  · exact dropMarks_watched s

/-- A watched change leaves all but what Watched names as the change does. -/
theorem watched_watched (f : State → State) (s : State) : Watched (f s) (watched f s) := watchGate_watched s (f s)

/-- The watch does nothing when nothing R135 names has changed. -/
theorem watchGate_same {before s : State} (h : gateView before = gateView s) : watchGate before s = s := by
  simp [watchGate, h]

/-- An awake part answers with the event, watched. -/
theorem event_awake (f : State → State) {s : State} (h : s.porst = false) :
    event f s = .next (watchGate s (f s)) := by simp [event, h]

/-- An awake part answers with the event itself when nothing R135 names has changed. -/
theorem event_same (f : State → State) {s : State} (h : s.porst = false) (hv : gateView s = gateView (f s)) :
    event f s = .next (f s) := by rw [event_awake f h, watchGate_same hv]

/-- The gate's view of a state whose link alone has changed, but not in its FEED place. -/
theorem gateView_onLi (f : Link → Link) {s : State} (h : (f s.li).feedPlace = s.li.feedPlace) :
    gateView s = gateView (s.onLi f) := by
  simp only [gateView, State.onLi, h]

end Sys2Proof.Machine
end

