-- ==== Sys2Proof/Laws/Requests.lean ====
section
/-!
SUPPORT. Laws/Requests.lean: taking a MGMT request and answering it, said once (R5 to R7): what a request row does when a
request of its code can be taken, and that the gate sees nothing of the reply place, the FIFO or the tables it does not name.
-/
namespace Sys2Proof.Machine

theorem startU_feedPlace (l : Link) : l.startU.feedPlace = l.feedPlace := by unfold Link.startU; split <;> rfl

theorem gateView_replied (s : State) (q : Request) (c : ReplyCode) (b : List Byte) :
    gateView s = gateView (s.replied q c b) :=
  gateView_onLi (Link.answer ⟨q.tag, BitVec.ofNat 8 q.code, c, b⟩) (startU_feedPlace _)

theorem gateView_taken (s : State) (rest : List Frame) : gateView s = gateView (s.taken rest) :=
  gateView_onLi (fun l => { l with fifo := rest }) rfl

theorem gateView_post (n : Notice) (s : State) : gateView s = gateView (post n s) :=
  gateView_onLi (Link.post n) (post_kept n s.li).feedPlace

theorem gateView_answered (s : State) (q : Request) (c : ReplyCode) (b : List Byte) (rest : List Frame) :
    gateView s = gateView (s.answered q c b rest) :=
  (gateView_taken s rest).trans (gateView_replied _ q c b)

/-- The model's `reply` and `replied` are one. -/
theorem reply_eq (q : Request) (c : ReplyCode) (b : List Byte) (s : State) : reply q c b s = s.replied q c b := rfl

theorem requested_head {s : State} {q : Request} {rest : List Frame} (h : Requested s q rest) :
    requestAtHead s = some (q, rest) := by
  obtain ⟨f, hf, hk, rfl⟩ := h.head
  simp [requestAtHead, hf, hk, h.place]

/-- A request that its row wants is refused by the LI for its length, or handed to its owner. -/
theorem takeRequest_taken {wanted : Request → Bool} (act : Request → State → State) {s : State} {q : Request}
    {rest : List Frame} (h : Requested s q rest) (hw : wanted q = true) :
    takeRequest wanted act s =
      if requestLengthOk q = some false then s.answered q .refusedInvalid [] rest else act q (s.taken rest) := by
  simp only [takeRequest, requested_head h, hw, if_true]; rfl

/-- A row whose code and length fit answers with its owner's work, watched. -/
theorem onRequest_taken (act : Request → State → State) {s : State} {q : Request} {rest : List Frame} {code : Nat}
    (h : Requested s q rest) (hc : q.code = code) (hl : requestLengthOk q ≠ some false) :
    onRequest code act s = .next (watchGate s (act q (s.taken rest))) := by
  unfold onRequest
  rw [event_awake _ h.awake, takeRequest_taken act h (by simpa using hc), if_neg hl]

/-- The same, when the gate sees nothing of it. -/
theorem onRequest_quiet (act : Request → State → State) {s : State} {q : Request} {rest : List Frame} {code : Nat}
    (h : Requested s q rest) (hc : q.code = code) (hl : requestLengthOk q ≠ some false)
    (hv : gateView s = gateView (act q (s.taken rest))) :
    onRequest code act s = .next (act q (s.taken rest)) := by
  rw [onRequest_taken act h hc hl, watchGate_same hv]

/-- A request row changes nothing while the reply place holds a reply (R6). -/
theorem takeRequest_waits (wanted : Request → Bool) (act : Request → State → State) {s : State} (h : s.li.reply ≠ none) :
    takeRequest wanted act s = s := by
  have : requestAtHead s = none := by
    unfold requestAtHead; split
    · rfl
    · simp [h]
  simp [takeRequest, this]

theorem event_unchanged (f : State → State) {s : State} (h : f s = s) : event f s = .next s := by
  unfold event
  split
  · rfl
  · rw [h, watchGate_same rfl]

end Sys2Proof.Machine
end

