-- ==== Sys2Proof/WellFormed.lean ====
section
/-!
DEFINITION. WellFormed.lean: the checks on a command's operands that its types do not already make: the body lengths of
R182, and what makes an ENGSTAT one of an unread kind (R9).
-/
namespace Sys2Proof

/-- The longest run of bytes one reception can hold: kind, length, 65535 body bytes and the CRC (section 12.1). -/
def maxReception : Nat := 1 + 2 + 65535 + 2

/-- The body of an ENGSTAT has 1 to 256 bytes (R182). -/
def statusLengthOk (n : Nat) : Bool := decide (1 ≤ n ∧ n ≤ 256)

/-- R9 can leave the body unread: its kind is none of the seven, its tray or bin byte is missing or names none, or it is a
COMPILE FAULT (of a bin that is not the compile bin, which the state decides). -/
def statusMayBeUnread (body : List Byte) : Bool :=
  match body with
  | [] => false
  | kind :: fields =>
    if kind = 0 ∨ 8 ≤ kind.toNat then true
    else if kind = 7 then false
    else if kind = 6 then true
    else match fields with
      | [] => true
      | n :: _ => decide (6 ≤ n.toNat)

/-- Whether a command's operands are ones the part can meet. -/
def Instr.wellFormed : Instr → Bool
  | .frameReceived _ bytes => decide (bytes.length ≤ maxReception)
  | .trayEmpty _ rest | .trayFilled _ rest | .binFull _ rest | .binCleared _ rest | .setEjected _ rest
  | .compileFault _ rest => statusLengthOk (2 + rest.length)
  | .engineFault code => statusLengthOk (1 + code.length)
  | .engstatUnread body => statusLengthOk body.length && statusMayBeUnread body
  | .porstAssert | .porstRelease | .order | .band | .engcmd | .mgmtUnknownRequest | .readStatus | .resetPart
  | .loadRoute | .unloadRoute | .loadBin | .loadTray | .setTiming | .start | .stop | .readSheets | .readBin
  | .setRetentionMode | .inquirePage | .dropPage | .flush | .flushWalkStep | .openJob | .closeJob | .cancelJob
  | .trayReady | .readQueues | .readIncidents | .confirmClear | .call _ _ | .uFrameSent | .eFrameSent | .haltSent
  | .bandoutSent | .bandoutGiven | .writeTransferEnd | .readTransferEnd | .leadEdge _ | .trailEdge _
  | .coverOpen _ _ | .coverShut _ | .tpEdge | .countAdvance | .leadWindowExpiry | .trailDeadlineExpiry
  | .runoutDeadlineExpiry | .pathStill | .settleTimerExpiry _ | .coverSettleExpiry | .admitGateHead | .wallTick _
  | .checkpointSampleInstant _ => true

end Sys2Proof
end

