-- ==== Sys2Proof/Tests/Slice0.lean ====
section
/-!
SUPPORT. Tests/Slice0.lean: the model's own tests: the WellFormed smoke, small tests of single commands, and for each
obligation with hypotheses one theorem, `witness_<Name>`, with concrete states that meet them, clause by clause.
-/
namespace Sys2Proof.Tests
open Sys2Proof.Machine

set_option Elab.async false

/-! ## WellFormed and decoding -/

theorem test_wellFormed_longest_reception :
    (Instr.frameReceived .u (List.replicate 65540 0)).wellFormed = true ∧
    (Instr.frameReceived .u (List.replicate 65541 0)).wellFormed = false := by
  simp only [Instr.wellFormed, List.length_replicate, maxReception]; decide

theorem test_wellFormed_status_lengths :
    let long := List.replicate 255 (0 : Byte)
    ([Instr.trayEmpty 0 long, .trayFilled 0 long, .binFull 0 long, .binCleared 0 long, .setEjected 0 long,
      .compileFault 0 long, .engineFault (0 :: long), .engstatUnread (0 :: 0 :: long)].map Instr.wellFormed =
      List.replicate 8 false) ∧
    ([Instr.trayEmpty 0 [], .trayFilled 5 [], .binFull 0 [], .binCleared 5 [], .setEjected 0 [], .compileFault 5 [],
      .engineFault [], .engstatUnread [0]].map Instr.wellFormed = List.replicate 8 true) := by
  decide +kernel

theorem test_wellFormed_unread_body :
    (Instr.engstatUnread []).wellFormed = false ∧ (Instr.engstatUnread [1, 5]).wellFormed = false ∧
    (Instr.engstatUnread [7]).wellFormed = false ∧ (Instr.engstatUnread [1]).wellFormed = true ∧
    (Instr.engstatUnread [5, 6]).wellFormed = true ∧ (Instr.engstatUnread [6, 0]).wellFormed = true ∧
    (Instr.engstatUnread [8, 0]).wellFormed = true := by decide +kernel

theorem test_no_row_has_bits (nbits w : Nat) : decodeTableWord nbits w = none := rfl

theorem test_crc_of_nine_digits :
    crc16 [0x31, 0x32, 0x33, 0x34, 0x35, 0x36, 0x37, 0x38, 0x39] = 0x29B1 := by decide +kernel

/-! ## Small states -/

def stepOf (ck : Checkpoint) (earliest latest : Nat) (zone : Zone) (mark : SideMark) (divert last : Bool) : RouteStep :=
  ⟨ck, earliest, latest, 4, zone, mark, divert, last⟩

/-- A simplex route T0 to B0: CK0, CK1 (front), CK2 (divert-last), CK3 (exit). -/
def simplex : Route := ⟨true, 0, 0, false,
  [stepOf 0 0 20 .blank .none false false, stepOf 1 5 40 .imaged .front false false,
   stepOf 2 10 60 .finished .none true false, stepOf 3 15 80 .finished .none false true]⟩

/-- A duplex route T1 to B1: CK0, CK1 (front), CK1 (back, divert-last), CK4 (exit). -/
def duplex : Route := ⟨true, 1, 1, true,
  [stepOf 0 0 20 .blank .none false false, stepOf 1 5 40 .imaged .front false false,
   stepOf 1 20 60 .imaged .back true false, stepOf 4 30 90 .finisher .none false true]⟩

/-- A description START accepts: B0 PLAIN, B1 the compile bin, BP with exit CK7. -/
def described : PathDesc := { PathDesc.reset with
  routes := (PathDesc.reset.routes.set 0 simplex).set 1 duplex
  bins := ((PathDesc.reset.bins.set 0 ⟨true, .plain⟩).set 1 ⟨true, .compile⟩).set 6 ⟨true, .plain⟩
  purgeExit := 7
  trays := Vector.replicate 6 true }

def idle : State := { State.reset with pds := described }

/-- RUNNING, MOVING, job 1 OPEN with class FULL in slot 0. -/
def live : State := { idle with
  pds := { described with mode := .running }
  stk := { Tracker.reset with path := .moving }
  ogt := { Gate.reset with jobs := Gate.reset.jobs.set 0 ⟨.opened, 1, .full, 0, 0, 0, 0, 0, 0, 0⟩ } }

def onePage : Snapshot := ⟨0, 50, ⟨0, 1⟩, none, none⟩
def twoPages : Snapshot := ⟨1, 50, ⟨0, 2⟩, some ⟨0, 3⟩, some (4, false)⟩

/-- A simplex sheet that covers CK0, with tag 7 and sequence 1. -/
def moved : Sheet := ⟨0, 7, 1, 0, onePage, 0, .moving, .step 1, [⟨0, .step 0, 0, 0⟩], none, .none, none, none, false,
  false, false, 0⟩
def admitted : Sheet := { moved with state := .admitted, next := .step 0, occupied := [] }
/-- A sheet of bin B0 in stage `st`. -/
def settled (slot : Fin 24) (tag : Tag) (q : Seq) (st : Stage) : Sheet :=
  { moved with
    slot := slot, tag := tag, seq := q, state := .settling, next := .step 4, occupied := [], sides := .front
    stage := some st }
/-- The same in the compile bin B1. -/
def compiling (slot : Fin 24) (tag : Tag) (q : Seq) (st : Stage) : Sheet :=
  { settled slot tag q st with snap := twoPages, sides := .both }

def withSheets (path : PathState) (sheets : List Sheet) (s : State) : State :=
  { s with stk := { s.stk with path := path, sheets := sheets } }

/-- A page line of one block. -/
def lineOf (st : LineState) (page : Nat) (owner : Option Seq) : Line :=
  ⟨st, ⟨0, page⟩, owner, [page], 10, .full, none, false, false⟩
def withLines (l : List (Nat × Line)) (s : State) : State := { s with pgd := { s.pgd with lines := l } }
def entryOf (q : Seq) (snap : Snapshot) : Entry := ⟨q, 0, snap, false, none, 0⟩
def withOrders (l : List Entry) (s : State) : State := { s with ogt := { s.ogt with orq := l } }

def incident (status : IncStatus) (phase : Phase) (cause : Cause) : Incident :=
  ⟨status, phase, cause, 1, [⟨cause, none, none, none⟩], [], none, false, false⟩
def withJam (phase : Phase) (s : State) : State :=
  { s with rcc := { s.rcc with jam := some (incident .active phase .late) } }

/-- The state a command leaves. -/
def run (c : Instr) (s : State) : State :=
  match exec c s with
  | .next t => t
  | .fault _ | .refused _ => s

/-! ## Requests -/

/-- `s` with a request at the head of its input FIFO. -/
def asks (s : State) (code : Nat) (fields : List Byte) : State :=
  { s with li := { s.li with fifo := [Frame.make kindMgmt (BitVec.ofNat 8 code :: 0 :: 7 :: fields)] } }

def request (code : Nat) (fields : List Byte) : Request := requestOf (BitVec.ofNat 8 code :: 0 :: 7 :: fields)

/-- The hypotheses every statement about a request has, of `asks s code fields`. -/
abbrev Asked (s : State) (code : Nat) (fields : List Byte) (n : Nat) : Prop :=
  s.porst = false ∧ s.li.reply = none ∧ (request code fields).code = code ∧ (request code fields).body.length = n

theorem Asked.requested {s : State} {code n : Nat} {fields : List Byte} (h : Asked s code fields n) :
    Requested (asks s code fields) (request code fields) [] := ⟨h.1, h.2.1, _, rfl, rfl, rfl⟩

/-- The reply a request gets, when the U-port is free to send it. -/
def told (c : Instr) (s : State) : Option (ReplyCode × List Byte) :=
  match (run c s).li.uTx with
  | some (.reply r) => some (r.code, r.body)
  | _ => none

/-! ## The step, PORST, the link -/

theorem witness_StepRunsFrontCommand : ({ live with pending := [.stop] } : State).pending = .stop :: [] ∧
    live.pending = [] := ⟨rfl, rfl⟩

theorem witness_PorstLine : live.porst = false ∧ (run .porstAssert live).porst = true ∧
    (Instr.order ≠ .porstRelease) := by decide +kernel

/-- The bytes of a frame on the wire, from the kind on. -/
def wire (kind : Byte) (body : List Byte) : List Byte :=
  kind :: bytes2 body.length ++ body ++ half (frameCrc kind body)

def aRequest : List Byte := [0x14, 0, 7]
def callFront : List Byte := [0, 7, 1]

theorem witness_FrameReceived :
    (inbound .u 0xC1 = false ∧ inbound .e 0x01 = false) ∧
    (inbound .u kindMgmt = true ∧ legalLength kindMgmt 2 = false ∧ legalLength kindMgmt 130 = false ∧
      legalLength kindMgmt 3 = true ∧ legalLength kindMgmt 129 = true) ∧
    ([0x14, 0, 7, 0xAA] : List Byte).length < 3 + 2 ∧
    judge .u (wire kindMgmt aRequest) = .good (Frame.make kindMgmt aRequest) ∧
    judge .u [kindMgmt, 0, 3, 0x14, 0, 7, 0, 0] = .check kindMgmt ∧ judge .u [] = .check 0 ∧
    judge .u [kindMgmt] = .check kindMgmt ∧ judge .u [kindMgmt, 0] = .check kindMgmt ∧ judge .u [0xC1] = .format 0xC1 ∧
    judge .e (wire kindCall [0, 7, 3]) = .format kindCall ∧ judge .u [kindMgmt, 0, 2] = .format kindMgmt ∧
    (live.porst = false ∧ live.li.fifo.length < 2) ∧
    (let full := { live.li with fifo := [Frame.make kindMgmt aRequest, Frame.make kindMgmt aRequest] }
     2 ≤ full.fifo.length ∧
      (run (.frameReceived .u (wire kindMgmt aRequest)) { live with li := full }).li.overrunCount = 1) := by
  decide +kernel

theorem witness_EPortFrameActsAsItsRow :
    judge .e (wire kindCall callFront) = .good (Frame.make kindCall callFront) ∧
    (∀ body ∈ ([[1, indexByte 5], [2, indexByte 5], [3, indexByte 5], [4, indexByte 5], [5, indexByte 5],
        [6, indexByte 1], [7, 9], [8]] : List (List Byte)),
      judge .e (wire kindEngstat body) = .good (Frame.make kindEngstat body)) ∧
    unread live [8] = true ∧ unread live [6, 0] = true := by decide +kernel

def notice (n : Half) : Posted := ⟨n, .setLost 0 4⟩
def sending (s : State) (x : UOut) : State := { s with li := { s.li with uTx := some x } }
def aReply : Reply := ⟨7, 0x14, .done, []⟩

theorem witness_NoticesAndUTransmitter :
    (let s := { sending live (.notice (notice 0)) with
       li := { (sending live (.notice (notice 0))).li with notices := List.replicate 31 (notice 1) } }
     s.li.notices.length < 32 ∧ s.li.uTx.isSome = true) ∧
    (32 ≤ ({ live.li with notices := List.replicate 32 (notice 1) } : Link).notices.length) ∧
    (live.li.uTx = none ∧ live.li.reply = none ∧ live.li.notices = [] ∧ live.li.upward = []) ∧
    (let s := sending live (.notice (notice 0))
     let f := Frame.make kindEngstat [1, 0]
     (run .uFrameSent { s with li := { s.li with reply := some aReply, notices := [notice 1] } }).li.uTx =
       some (.reply aReply) ∧
     (run .uFrameSent { s with li := { s.li with notices := [notice 1], upward := [f] } }).li.uTx =
       some (.notice (notice 1)) ∧
     (run .uFrameSent { s with li := { s.li with upward := [f] } }).li.uTx = some (.engstat f) ∧
     (run .uFrameSent s).li.uTx = none) ∧
    ((sending live (.notice (notice 0))).li.answer aReply).reply = some aReply := by decide +kernel

def sendingE (s : State) (x : EOut) : State := { s with li := { s.li with eTx := some x } }
def aFeed : Feed := ⟨7, 0, 0, 50, false⟩
def aBand : BandOut := ⟨7, .front, 0, true, [1, 2]⟩
/-- A link with one of everything waiting for the E-port. -/
def waitingE : Link := { Link.reset with
  haltPlace := true, divertQueue := [8], runoutPlace := some [(7, .bin 0)], bandoutPlace := some aBand
  feedPlace := some aFeed, engcmdPlace := some (Frame.make kindEngcmd [1]) }

theorem witness_ETransmitterOrder :
    (waitingE.eTx = none ∧ waitingE.haltPlace = true) ∧
    (let l1 := { waitingE with haltPlace := false }
     let l2 := { l1 with divertQueue := [] }
     let l3 := { l2 with runoutPlace := none }
     let l4 := { l3 with bandoutPlace := none }
     let l5 := { l4 with feedPlace := none }
     l1.startE.eTx = some (.divert 8) ∧ l2.startE.eTx = some (.runout [(7, .bin 0)]) ∧
     l3.startE.eTx = some (.bandout aBand) ∧ l4.startE.eTx = some (.feed aFeed) ∧
     l5.startE.eTx = some (.engcmd (Frame.make kindEngcmd [1])) ∧ live.li.startE = live.li) ∧
    (EOut.divert 8 ≠ .halt ∧ (run .eFrameSent (sendingE live (.divert 8))).li.eTx = none) ∧
    (let f := Frame.make kindEngcmd [1]
     let s := { live with li := { live.li with fifo := [f] } }
     f.kind = kindEngcmd ∧ s.li.engcmdPlace = none ∧ s.li.eTx = none ∧ (run .engcmd s).li.eTx = some (.engcmd f) ∧
     (run .engcmd (sendingE s .halt)).li.engcmdPlace = some f) ∧
    waitingE.engcmdPlace ≠ none := by decide +kernel

/-- A HALT placed beside one in transmission waits for its turn (R12); placed twice, it is one. -/
theorem witness_ETransmitterOrder_placing :
    let l := (sendingE live .halt).li
    l.eTx.isSome = true ∧ l.placeHalt.haltPlace = true ∧ l.placeHalt.eTx = some .halt ∧ l.placeHalt.placeHalt = l.placeHalt ∧
    (requestHalt (sendingE live .halt)).li.haltPlace = true := by decide +kernel

theorem witness_ETransmitterOrder_linkOk : LinkOk { live.li with fifo := [Frame.make kindEngcmd [1]] } :=
  ⟨by decide, by decide, by decide, fun _ => ⟨rfl, rfl, rfl⟩, fun _ => ⟨rfl, rfl, rfl, rfl, rfl, rfl⟩⟩

def aCall : CallReq := ⟨7, .front, ⟨0, 1⟩⟩
def reading (r : Reader) (port : Option Holder) (s : State) : State :=
  { s with cre := { s.cre with reader := r, port := port } }

theorem witness_HaltSent :
    let s := sendingE live .halt
    (s.porst = false ∧ s.li.eTx = some .halt ∧ s.cre.reader = .idle) ∧
    (run .haltSent (reading .draining (some .replay) s)).cre.reader = .draining ∧
    (run .haltSent (reading (.streaming aCall [5] 0) (some .replay) s)).cre.reader = .draining ∧
    (run .haltSent (reading (.streaming aCall [5] 0) (some .capture) s)).cre.reader = .idle := by decide +kernel

theorem witness_HaltSent_unpin :
    let pinned := fun m => withLines [(4, { lineOf .locked 1 (some 1) with pin := true, invalidateOnUnpin := m })] live
    live.pgd.lookup ⟨0, 1⟩ = none ∧
    (unpinAbandoned ⟨0, 1⟩ (pinned false)).pgd.lines = [(4, lineOf .locked 1 (some 1))] ∧
    (unpinAbandoned ⟨0, 1⟩ (pinned true)).pgd.lines = [] := by decide +kernel

/-! ## Requests of the link and the path description -/

theorem witness_RequestsTheLinkAnswers :
    (Asked live 0x99 [] 3 ∧ (∀ x ∈ requestRows, (request 0x99 []).code ≠ x.2.1) ∧
      told .mgmtUnknownRequest (asks live 0x99 []) = some (.refusedUnknown, [])) ∧
    ((.readStatus, codeReadStatus, 4) ∈ requestRows ∧ Asked live codeReadStatus [1, 2] 5 ∧
      told .readStatus (asks live codeReadStatus [1, 2]) = some (.refusedInvalid, [])) ∧
    (Asked idle codeLoadRoute [] 3 ∧ unloads (request codeLoadRoute []) = false ∧
      told .loadRoute (asks idle codeLoadRoute []) = some (.refusedInvalid, [])) ∧
    (unloads (request codeLoadRoute [0, 0]) = true ∧
      told .unloadRoute (asks idle codeLoadRoute [0, 0]) = some (.refusedInvalid, [])) ∧
    ({ live.li with reply := some aReply } : Link).reply ≠ none := by decide +kernel

theorem witness_ReadStatusReportsAndClears :
    Asked live codeReadStatus [0] 4 ∧ Asked live codeReadStatus [1] 4 ∧
    told .readStatus (asks live codeReadStatus [0]) = some (.done, [1, 0, 0, 0, 0, 0, 0, 0, 0, 0, 0, 0, 0]) ∧
    (let s := { live with li := { live.li with dropped := true, checkCount := 3 } }
     ((run .readStatus (asks s codeReadStatus [0])).li.checkCount, (run .readStatus (asks s codeReadStatus [1])).li.checkCount,
       (run .readStatus (asks s codeReadStatus [0])).li.dropped) = (3, 0, false)) := by decide +kernel

theorem witness_ResetPart : Asked (withSheets .moving [moved] live) codeResetPart [] 3 ∧
    (let t := run .resetPart (asks (withSheets .moving [moved] live) codeResetPart [])
     (t.pds.mode, t.stk.path, t.stk.sheets, t.li.eTx, t.ogt.seqCounter) = (.setup, .halted, [], some .halt, 1)) := by
  decide +kernel

/-- LOAD ROUTE fields up to the step count, and one step record. -/
def routeHead (route loaded tray bin dup count : Byte) : List Byte := [route, loaded, tray, bin, dup, count]
def stepRec (ck tolHi zone mark flags : Byte) : List Byte := [ck, 0, 5, 0, 40, tolHi, 4, zone, mark, flags]

theorem witness_LoadRoute :
    (∀ n ∈ [2, 12], Asked idle codeLoadRoute (routeHead 15 1 5 5 1 (BitVec.ofNat 8 n) ++
        (List.replicate n (stepRec 23 15 3 2 3)).flatten) (9 + 10 * n) ∧
      told .loadRoute (asks idle codeLoadRoute (routeHead 15 1 5 5 1 (BitVec.ofNat 8 n) ++
        (List.replicate n (stepRec 23 15 3 2 3)).flatten)) = some (.done, [])) ∧
    (∀ p ∈ [(routeHead 16 1 0 0 0 0, [3]), (routeHead 0 2 0 0 0 0, [4]), (routeHead 0 1 6 0 0 0, [5]),
        (routeHead 0 1 0 6 0 0, [6]), (routeHead 0 1 0 0 2 0, [7]), (routeHead 0 1 0 0 0 1 ++ stepRec 0 0 0 0 0, [8]),
        (routeHead 0 1 0 0 0 2 ++ stepRec 0 0 0 0 0 ++ stepRec 24 0 0 0 0, [19, 1]),
        (routeHead 0 1 0 0 0 2 ++ stepRec 0 0 0 0 0 ++ stepRec 0 16 0 0 0, [24, 1]),
        (routeHead 0 1 0 0 0 2 ++ stepRec 0 0 4 0 0 ++ stepRec 0 0 0 0 0, [16, 0]),
        (routeHead 0 1 0 0 0 2 ++ stepRec 0 0 0 3 0 ++ stepRec 0 0 0 0 0, [17, 0]),
        (routeHead 0 1 0 0 0 2 ++ stepRec 0 0 0 0 4 ++ stepRec 0 0 0 0 0, [18, 0])],
      routeFault (request codeLoadRoute p.1).body = some p.2 ∧
      told .loadRoute (asks idle codeLoadRoute p.1) = some (.refusedInvalid, p.2)) ∧
    told .loadRoute (asks live codeLoadRoute (routeHead 0 1 0 0 0 0)) = some (.refusedMode, []) := by decide +kernel

theorem witness_UnloadRoute :
    (∀ r ∈ [0, 15], Asked idle codeLoadRoute (routeHead r 0 0 0 0 0) 9 ∧
      told .unloadRoute (asks idle codeLoadRoute (routeHead r 0 0 0 0 0)) = some (.done, [])) ∧
    told .unloadRoute (asks idle codeLoadRoute (routeHead 16 0 0 0 0 0)) = some (.refusedInvalid, [3]) ∧
    told .unloadRoute (asks idle codeLoadRoute (routeHead 0 0 0 0 0 1 ++ stepRec 0 0 0 0 0)) =
      some (.refusedInvalid, [8]) ∧
    told .unloadRoute (asks live codeLoadRoute (routeHead 0 0 0 0 0 0)) = some (.refusedMode, []) ∧
    (idle.pds.routes[15].loaded = false ∧ idle.pds.routes[15].steps = []) ∧
    (run .unloadRoute (asks idle codeLoadRoute (routeHead 0 0 0 0 0 0))).pds.routes[0] =
      { simplex with loaded := false, steps := [] } := by decide +kernel

theorem witness_LoadBin :
    (∀ p ∈ [([7, 0, 0, 0], [3]), ([0, 2, 0, 0], [4]), ([0, 1, 2, 0], [5]), ([6, 1, 1, 0], [5]), ([0, 1, 1, 0], [5]),
        ([6, 1, 0, 24], [6])],
      Asked idle codeLoadBin p.1 7 ∧ told .loadBin (asks idle codeLoadBin p.1) = some (.refusedInvalid, p.2)) ∧
    (∀ f ∈ [[6, 0, 9, 9], [6, 1, 0, 23], [5, 1, 0, 99], [1, 1, 1, 0]],
      told .loadBin (asks idle codeLoadBin f) = some (.done, [])) ∧
    (∃ b : Fin 7, b ≠ 0 ∧ idle.pds.bins[b] = ⟨true, .compile⟩) ∧
    (∀ b : Fin 7, b ≠ 1 → idle.pds.bins[b] ≠ ⟨true, .compile⟩) ∧
    (run .loadBin (asks idle codeLoadBin [6, 1, 0, 23])).pds.purgeExit = 23 ∧
    told .loadBin (asks live codeLoadBin [0, 0, 0, 0]) = some (.refusedMode, []) := by decide +kernel

theorem witness_LoadTray :
    (∀ f ∈ [[6, 0], [0, 2]], Asked idle codeLoadTray f 5 ∧
      told .loadTray (asks idle codeLoadTray f) = some (.refusedInvalid, [])) ∧
    (∀ f ∈ [[0, 0], [5, 1]], told .loadTray (asks idle codeLoadTray f) = some (.done, [])) ∧
    (run .loadTray (asks idle codeLoadTray [5, 0])).pds.trays[5] = false ∧
    told .loadTray (asks live codeLoadTray [0, 0]) = some (.refusedMode, []) := by decide +kernel

/-- SET TIMING bodies: the defaults, the lowest values, the highest values. -/
def timingBytes (t : Timing) : List Byte :=
  num1 t.tdiv ++ bytes2 t.ckSampleUs ++ num1 t.coverSampleMs ++ num1 t.stillMs ++ bytes2 t.settleMs ++
    bytes2 t.coverSettleMs ++ bytes2 t.runoutLimit ++ num1 t.misfeedLimit ++ num1 t.replayHold ++ num1 t.captureHold ++
    num1 t.setProtection

theorem witness_SetTiming :
    (∀ t ∈ [Timing.mk 0 50 1 5 50 100 1000 0 1 1 1, ⟨4, 1000, 20, 255, 2000, 5000, 65535, 3, 8, 8, 96⟩],
      Asked idle codeSetTiming (timingBytes t) 18 ∧ (∀ x ∈ t.checks, x = true) ∧ t ≠ idle.pds.timing ∧
      (run .setTiming (asks idle codeSetTiming (timingBytes t))).pds.timing = t) ∧
    (∀ p ∈ [(Timing.mk 5 50 1 5 50 100 1000 0 1 1 1, 1), (⟨0, 49, 1, 5, 50, 100, 1000, 0, 1, 1, 1⟩, 2),
        (⟨0, 50, 21, 5, 50, 100, 1000, 0, 1, 1, 1⟩, 3), (⟨0, 50, 1, 4, 50, 100, 1000, 0, 1, 1, 1⟩, 4),
        (⟨0, 50, 1, 5, 2001, 100, 1000, 0, 1, 1, 1⟩, 5), (⟨0, 50, 1, 5, 50, 5001, 1000, 0, 1, 1, 1⟩, 6),
        (⟨0, 50, 1, 5, 50, 100, 999, 0, 1, 1, 1⟩, 7), (⟨0, 50, 1, 5, 50, 100, 1000, 4, 1, 1, 1⟩, 8),
        (⟨0, 50, 1, 5, 50, 100, 1000, 0, 9, 1, 1⟩, 9), (⟨0, 50, 1, 5, 50, 100, 1000, 0, 1, 0, 1⟩, 10),
        (⟨0, 50, 1, 5, 50, 100, 1000, 0, 1, 1, 97⟩, 11)],
      told .setTiming (asks idle codeSetTiming (timingBytes p.1)) = some (.refusedInvalid, [BitVec.ofNat 8 p.2])) ∧
    told .setTiming (asks idle codeSetTiming (timingBytes idle.pds.timing)) = some (.done, []) ∧
    told .setTiming (asks live codeSetTiming (timingBytes idle.pds.timing)) = some (.refusedMode, []) := by
  decide +kernel

theorem witness_Start :
    (Asked idle codeStart [] 3 ∧ startFault idle.pds = none ∧ idle.ckm.ckHeld = 0 ∧ idle.ckm.cvHeld = 0 ∧
      told .start (asks idle codeStart []) = some (.done, [])) ∧
    told .start (asks live codeStart []) = some (.refusedMode, []) ∧
    told .start (asks State.reset codeStart []) = some (.refusedInvalid, [1, 0, 0]) ∧
    told .start (asks { idle with pds := { described with trays := described.trays.set 1 false } } codeStart []) =
      some (.refusedInvalid, [3, 1, 1, 0]) ∧
    told .start (asks { idle with ckm := { idle.ckm with ckHeld := 0x800001#24 } } codeStart []) =
      some (.refusedState, [2, 0, 23]) ∧
    (let s := { idle with ckm := { idle.ckm with cvHeld := 0b100100#6 } }
     (s.ckm.cvHeld.getLsbD 2 = true ∧ ∀ d : Cover, d < 2 → s.ckm.cvHeld.getLsbD d.val = false) ∧
     ((run .start (asks s codeStart [])).rcc.interlock.map (·.details)) =
       some [⟨.coverOpen, none, none, some (.cover 2)⟩]) := by decide +kernel

theorem witness_Stop :
    (Asked live codeStop [] 3 ∧ told .stop (asks live codeStop []) = some (.done, [])) ∧
    told .stop (asks idle codeStop []) = some (.refusedMode, []) ∧
    told .stop (asks (withJam .stop (withSheets .moving [moved] live)) codeStop []) = some (.refusedBusy, [1, 0, 0, 1, 1]) ∧
    (live.stk.sheets = [] ∧ live.ogt.orq = [] ∧ live.ogt.ril = [] ∧ ∀ c ∈ IncClass.all, live.rcc.get c = none) := by
  decide +kernel

/-- A media length takes one byte in a snapshot, so that the keys after it stand at the same place for 50 and for 8000. -/
theorem test_mediaLength_oneByte :
    snapshotBytes onePage = [0, 50, 0, 0, 0, 1, 0, 0] ∧
    (snapshotBytes { onePage with media := 8000 }).drop 2 = [0, 0, 0, 1, 0, 0] := by decide +kernel

theorem witness_ReadRequests :
    (Asked live codeReadSheets [] 3 ∧ told .readSheets (asks live codeReadSheets []) = some (.done, [0, 0, 0, 0, 0, 0])) ∧
    (Asked live codeReadBin [5] 4 ∧ told .readBin (asks live codeReadBin [6]) = some (.refusedInvalid, []) ∧
      told .readBin (asks live codeReadBin [1]) = some (.done, [1, 1, 0, 0, 0, 0, 0, 0, 0, 0, 0, 0, 0])) ∧
    (Asked live codeInquirePage [7, 0, 0, 1] 7 ∧
      told .inquirePage (asks live codeInquirePage [8, 0, 0, 1]) = some (.refusedInvalid, []) ∧
      told .inquirePage (asks (withLines [(4, lineOf .ready 1 (some 9))] { live with pgd := { live.pgd with free := [3, 2] } })
        codeInquirePage [0, 0, 0, 1]) =
        some (.done, [1, 1, 0, 2, 1, 0, 0, 0, 9, 1, 0, 0, 0, 10, 2, 0, 0, 0, 1, 1, 0, 0, 2])) ∧
    (Asked live codeReadQueues [] 3 ∧ (told .readQueues (asks live codeReadQueues [])).isSome = true) ∧
    (Asked live codeReadIncidents [] 3 ∧ told .readIncidents (asks live codeReadIncidents []) =
      some (.done, [0, 0, 0, 0, 0, 0, 0, 0, 0, 0, 0, 0])) := by decide +kernel

/-! ## The Page Directory -/

theorem witness_RetentionModeAndDropPage :
    (∀ f ∈ [[2, 0], [0, 2], [0, 1]], Asked live codeSetRetentionMode f 5 ∧
      told .setRetentionMode (asks live codeSetRetentionMode f) = some (.refusedInvalid, [])) ∧
    (∀ f ∈ [[0, 0], [1, 0], [1, 1]], told .setRetentionMode (asks live codeSetRetentionMode f) = some (.done, [])) ∧
    (run .setRetentionMode (asks live codeSetRetentionMode [1, 0])).pgd.keepSet = false ∧
    (Asked live codeDropPage [7, 0, 0, 1] 7 ∧
      told .dropPage (asks live codeDropPage [8, 0, 0, 1]) = some (.refusedInvalid, []) ∧
      told .dropPage (asks live codeDropPage [0, 0, 0, 1]) = some (.refusedState, [])) ∧
    (∀ l ∈ [{ lineOf .released 1 none with pin := true }, lineOf .filling 1 none, lineOf .locked 1 (some 9),
        lineOf .ready 1 (some 9)],
      told .dropPage (asks (withLines [(4, l)] live) codeDropPage [0, 0, 0, 1]) = some (.refusedBusy, [])) ∧
    (∀ l ∈ [lineOf .released 1 none, lineOf .ready 1 none, { lineOf .setheld 1 (some 9) with setTag := some ⟨0, 4⟩ }],
      told .dropPage (asks (withLines [(4, l)] live) codeDropPage [0, 0, 0, 1]) =
        some (.done, [BitVec.ofNat 8 l.state.code])) := by decide +kernel

def walking (w : Walk) (s : State) : State := { s with pgd := { s.pgd with walk := some w } }

theorem witness_Flush : Asked live codeFlush [0, 2] 5 ∧ live.pgd.walk = none ∧
    told .flush (asks (walking ⟨0, false, false, 0, []⟩ live) codeFlush [0, 2]) = some (.refusedBusy, []) ∧
    (run .flush (asks live codeFlush [0, 2])).pgd.walk = some ⟨0, false, true, 0, []⟩ := by decide +kernel

/-- A SETHELD line of set ⟨0, 4⟩. -/
def heldLine (page : Nat) (owner : Seq) : Line := { lineOf .setheld page (some owner) with setTag := some ⟨0, 4⟩ }

/-- Sets 0 and 63 hold a RELEASED, a SETHELD and a pinned RELEASED line; the Open Set Record protects set ⟨0, 4⟩, which has
one more line in set 1. -/
def flushed (next : Nat) (sets : Bool) (keys : Nat) : State :=
  let s := withLines [(0, lineOf .released 0 none), (1, heldLine 64 3), (2, { lineOf .released 128 none with pin := true }),
    (4, heldLine 1 3), (252, lineOf .released 63 none), (253, lineOf .ready 127 none)] live
  walking ⟨next, sets, true, 5, List.replicate keys ⟨1, 1⟩⟩
    { s with dlu := { s.dlu with openSet := some ⟨1, 0, 4, 0, 3, 3, 1, false, some [⟨3, 0, twoPages⟩]⟩ } }

theorem witness_FlushWalkStep : Cells.Rising (flushed 0 true 0).pgd.lines ∧ live.pgd.walk = none ∧
    (let t := run .flushWalkStep (flushed 0 false 0)
     t.pgd.lines.map (·.1) = [1, 2, 4, 252, 253] ∧ t.dlu = (flushed 0 false 0).dlu ∧
       t.pgd.stateOf ⟨0, 1⟩ = some .setheld) ∧
    (let t := run .flushWalkStep (flushed 0 true 0)
     t.pgd.lines.map (·.1) = [2, 4, 252, 253] ∧ t.pgd.walk = some ⟨1, true, true, 7, [⟨0, 0⟩, ⟨0, 64⟩]⟩ ∧
       t.dlu.openSet.map (·.guarded) = some none ∧ t.pgd.stateOf ⟨0, 1⟩ = some .released) ∧
    (let t := run .flushWalkStep (flushed 0 true 15)
     t.li.uTx = some (.notice ⟨0, .flushReport (List.replicate 15 ⟨1, 1⟩ ++ [⟨0, 0⟩])⟩) ∧
       t.pgd.walk = some ⟨1, true, true, 7, [⟨0, 64⟩]⟩) ∧
    (let t := run .flushWalkStep (flushed 63 true 1)
     t.pgd.walk = none ∧ t.pgd.lines.map (·.1) = [0, 1, 2, 4, 253] ∧
       t.li.uTx = some (.notice ⟨0, .flushReport [⟨1, 1⟩, ⟨0, 63⟩]⟩) ∧ t.li.notices = [⟨1, .flushEnd 6⟩]) := by
  decide +kernel

theorem witness_FlushWalkStep_walk (next keys : Nat) (sets : Bool) (hn : next < 64) (hk : keys < 16) :
    WalkOk (flushed next sets keys).pgd := by
  intro w hw
  cases hw
  exact ⟨hn, by simpa [Config.reportKeys] using hk⟩

/-! ## Jobs and trays -/

def withJob (j : Job) (s : State) : State := { s with ogt := { s.ogt with jobs := s.ogt.jobs.set 0 j } }
def openJobEntry : Job := ⟨.opened, 1, .full, 0, 0, 0, 0, 0, 0, 0⟩
def allOpen : State := { live with ogt := { live.ogt with jobs := Vector.replicate 8 openJobEntry } }

theorem witness_OpenAndCloseJob :
    (Asked live codeOpenJob [0, 2, 2] 6 ∧ told .openJob (asks live codeOpenJob [0, 2, 2]) = some (.done, [1]) ∧
      told .openJob (asks live codeOpenJob [0, 2, 3]) = some (.refusedInvalid, []) ∧
      told .openJob (asks live codeOpenJob [0, 1, 0]) = some (.refusedInvalid, [])) ∧
    ((∃ j : JobSlot, live.ogt.jobs[j].state ≠ .free ∧ live.ogt.jobs[j].id = 1) ∧
      ¬∃ j : JobSlot, live.ogt.jobs[j].state ≠ .free ∧ live.ogt.jobs[j].id = 2) ∧
    ((∀ j : JobSlot, allOpen.ogt.jobs[j].state ≠ .free) ∧
      told .openJob (asks allOpen codeOpenJob [0, 2, 0]) = some (.refusedFull, [])) ∧
    (let s := withLines [(4, { lineOf .released 1 none with key := ⟨7, 1⟩ })]
       { allOpen with ogt := { allOpen.ogt with jobs := allOpen.ogt.jobs.set 7 Job.reset } }
     told .openJob (asks s codeOpenJob [0, 2, 1]) = some (.refusedBusy, [1, 7, 0, 1])) ∧
    (Asked live codeCloseJob [0, 1] 5 ∧ told .closeJob (asks live codeCloseJob [0, 1]) = some (.done, []) ∧
      told .closeJob (asks live codeCloseJob [0, 2]) = some (.refusedInvalid, []) ∧
      told .closeJob (asks (withJob { openJobEntry with state := .closing, stt := 1 } live) codeCloseJob [0, 1]) =
        some (.refusedState, [])) ∧
    ((run .closeJob (asks live codeCloseJob [0, 1])).ogt.jobs[0].state = .free ∧
      (run .closeJob (asks (withJob { openJobEntry with set := 1 } live) codeCloseJob [0, 1])).ogt.jobs[0].state =
        .closing) := by decide +kernel

theorem witness_CancelJob :
    (Asked live codeCancelJob [0, 1] 5 ∧
      told .cancelJob (asks live codeCancelJob [0, 2]) = some (.refusedInvalid, []) ∧
      told .cancelJob (asks (withJob { openJobEntry with state := .cancelling, stt := 1 } live) codeCancelJob [0, 1]) =
        some (.refusedState, [])) ∧
    (∀ j : JobSlot, live.ogt.jobs[j].state = .free ∨ live.ogt.jobs[j].id ≠ 2) ∧
    (let s := withOrders [entryOf 1 onePage] (withLines [(4, lineOf .ready 1 (some 1))]
       (withJob { openJobEntry with orq := 1 } { live with pgd := { live.pgd with free := [2] } }))
     let t := run .cancelJob (asks s codeCancelJob [0, 1])
     told .cancelJob (asks s codeCancelJob [0, 1]) = some (.done, [1, 0]) ∧ t.ogt.orq = [] ∧ t.pgd.lines = [] ∧
       t.pgd.free = [2, 1] ∧ t.ogt.jobs[0].state = .free ∧ t.li.fifo = [] ∧
       t.li.notices = [⟨0, .jobDone 1 0 true 0 0 0⟩]) := by decide +kernel

/-- A job with an entry that owns a line and a pinned line, with the open set, beside a line of another owner. -/
theorem witness_CancelJob_lines :
    let s := withOrders [entryOf 1 onePage] (withJob { openJobEntry with orq := 1, set := 1 } (flushed 0 true 0))
    let lines := [(0, lineOf .ready 0 (some 1)), (1, { lineOf .locked 64 (some 1) with pin := true }), (4, heldLine 1 3),
      (8, lineOf .ready 2 (some 9))]
    let t := run .cancelJob (asks (withLines lines s) codeCancelJob [0, 1])
    t.pgd.lines = [(1, { lineOf .locked 64 (some 1) with pin := true, invalidateOnUnpin := true }),
      (4, { lineOf .released 1 none with key := ⟨0, 1⟩ }), (8, lineOf .ready 2 (some 9))] ∧
    t.dlu.openSet.map (·.guarded) = some none ∧ t.ogt.jobs[0].state = .cancelling := by decide +kernel

def heldTray (t : Tray) (s : State) : State :=
  { s with ogt := { s.ogt with trays := upd s.ogt.trays t fun f => { f with held := true } } }

theorem witness_TrayReady :
    Asked live codeTrayReady [5] 4 ∧ told .trayReady (asks live codeTrayReady [6]) = some (.refusedInvalid, []) ∧
    (live.ogt.trays[(5 : Tray)].held = false ∧
      told .trayReady (asks live codeTrayReady [5]) = some (.refusedState, [])) ∧
    ((heldTray 5 live).ogt.trays[(5 : Tray)].held = true ∧ (heldTray 5 live).rcc.activeIn .misfeed .trayHold = false ∧
      told .trayReady (asks (heldTray 5 live) codeTrayReady [5]) = some (.done, []) ∧
      (run .trayReady (asks (heldTray 5 live) codeTrayReady [5])).ogt.trays[(5 : Tray)].held = false) := by
  decide +kernel

/-- An open MISFEED record. -/
def misfed (phase : Phase) (status : IncStatus) (hold : List Obj) (judged : Bool) : Incident :=
  { incident status phase .misfeed with hold := hold, misfeed := some ⟨1, 7, 0, judged⟩ }
def withMisfeed (i : Incident) (s : State) : State := { s with rcc := { s.rcc with misfeed := some i } }
/-- Sequence 1 reissued, with so many misfeeds. -/
def reissued (n : Nat) (s : State) : State :=
  { s with ogt := { s.ogt with ril := [{ entryOf 1 onePage with origin := some .misfeed, retries := n }] } }

theorem witness_TrayReady_hold :
    (let s := withMisfeed (misfed .trayHold .active [.tray 0, .tray 5] true) (heldTray 5 live)
     s.rcc.activeIn .misfeed .trayHold = true ∧ (trayReadyReport s).rcc.misfeed.map (·.hold) = some [.tray 5] ∧
       (testTrayHold close { s with ogt := live.ogt }).rcc.misfeed = none) ∧
    (run .trayReady (asks (heldTray 0 (reissued 3 live)) codeTrayReady [0])).ogt.ril.map (·.retries) = [0] := by
  decide +kernel

theorem witness_TrayReady_retry :
    let m : Misfeed := ⟨1, 7, 0, false⟩
    let s := fun n => reissued n (withMisfeed (misfed .retry .active [] false) live)
    live.pds.timing.misfeedLimit = 2 ∧
    ((retryTest m (s 2)).ogt.trays[(0 : Tray)].held = false ∧ (retryTest m (s 3)).ogt.trays[(0 : Tray)].held = true ∧
      (retryTest m (s 3)).li.uTx = some (.notice ⟨0, .misfeedReport 0 7 1 0 3 2⟩)) ∧
    (let inTable := fun n => withSheets .moving [{ moved with retries := n }] live
     (retryTest m (inTable 2)).li.uTx = none ∧
       (retryTest m (inTable 3)).li.uTx = some (.notice ⟨0, .misfeedReport 0 7 1 0 3 2⟩)) ∧
    (retryTest m live).li.uTx = none ∧
    ((enterRetry close (s 2)).rcc.misfeed = none ∧
      (enterRetry close (s 3)).rcc.misfeed = some (misfed .trayHold .active [.tray 0] true)) := by decide +kernel

/-! ## Jam recovery by request -/

/-- HALTED in CLEARANCE, with one sheet stranded over CK0. -/
def cleared (d : Disposition) (levels : CheckpointLines) : State :=
  let r := { moved with state := .stranded, disposition := some d }
  let s := withJam .clearance (withSheets .halted [r] live)
  { s with stk := { s.stk with levels := levels } }

theorem witness_ConfirmClear :
    Asked live codeConfirmClear [] 3 ∧
    (live.rcc.activeIn .jam .clearance = false ∧
      told .confirmClear (asks live codeConfirmClear []) = some (.refusedState, [])) ∧
    ((cleared .manual 1).rcc.activeIn .jam .clearance = true ∧ blockingList (cleared .manual 1) = [(0, some 7)] ∧
      told .confirmClear (asks (cleared .manual 1) codeConfirmClear []) = some (.done, [1, 1, 0, 1, 0, 7]) ∧
      blockingList (cleared .purge 0x800001) = [(23, none)]) ∧
    (blockingList (cleared .purge 1) = [] ∧
      told .confirmClear (asks (cleared .purge 1) codeConfirmClear []) = some (.done, [0, 0]) ∧
      (run .confirmClear (asks (cleared .purge 1) codeConfirmClear [])).li.eTx = some (.runout [(7, .purgeBin)])) ∧
    (cleared .purge 1).rcc.jam = some (incident .active .clearance .late) := by decide +kernel

def stranded (slot : Fin 24) (tag : Tag) (q : Seq) (d : Option Disposition) (ck : Checkpoint) : Sheet :=
  { moved with
    slot := slot, tag := tag, seq := q, state := .stranded, disposition := d, occupied := [⟨ck, .step 0, 0, 0⟩] }
/-- HALTED in CLEARANCE with these sheets, CK0 to CK4 covered but for those of `gone`. -/
def disposing (gone : CheckpointLines) (sheets : List Sheet) : State :=
  let s := withJam .clearance (withSheets .halted sheets (withJob { openJobEntry with stt := sheets.length } live))
  { s with stk := { s.stk with levels := 0x1F &&& ~~~gone } }

theorem witness_ConfirmClear_dispose :
    (let s := disposing 2 [stranded 1 1 1 (some .manual) 1, { settled 2 2 2 .a with suspect := true }, settled 3 3 3 .b,
       stranded 4 4 4 (some .deliver) 2]
     let t := enterDispose s
     t.stk.sheets.map (fun r => (r.tag, r.state, r.disposition)) = [(4, .runout, some .purge)] ∧
       t.ogt.ril.map (·.seq) = [1, 2, 3] ∧ t.li.notices = [⟨1, .removeRequest .suspect 0 [(3, 3), (2, 2)] none⟩] ∧
       t.stk.path = .runningOut ∧ t.li.eTx = some (.runout [(4, .purgeBin)])) ∧
    ((enterDispose (disposing 2 [stranded 1 1 1 (some .manual) 1])).rcc.jam = none) := by decide +kernel

theorem witness_ConfirmClear_passes :
    (let s := disposing 2 [stranded 1 1 1 (some .deliver) 1, settled 3 3 3 .b]
     s.sheet? 1 = some (stranded 1 1 1 (some .deliver) 1) ∧ s.ogt.jobs[0].state ≠ .cancelling ∧
       (removeStranded 1 s).stk.sheets.map (·.suspect) = [true] ∧ (markSuspect 1 s).stk = s.stk ∧
       (markSuspect 3 s).dlu.bins[(0 : Bin)].timer = none) ∧
    (let s := disposing 0 [{ settled 1 1 1 .b with suspect := true }, settled 2 2 2 .a]
     (s.staged 0 .b = some { settled 1 1 1 .b with suspect := true } ∧ s.staged 0 .a = some (settled 2 2 2 .a)) ∧
       (removeSuspects [(0, .b), (0, .a)] s).2 = [(0, 1, 1)] ∧ s.frozen 0 = true ∧
       (removeSettling 1 s).dlu.bins[(0 : Bin)].timer = some 400 ∧ (removeSettling 1 s).frozen 0 = false ∧
       (removeSettling 2 s).frozen 0 = true ∧
       (removeSettling 2 (removeSettling 1 s)).dlu.bins[(0 : Bin)].timer = none) := by decide +kernel

/-- Two DELIVER sheets of bin B0 behind a reissued sequence: the first can still be diverted, the second is past. -/
def blockedBin : State :=
  reissued 0 (disposing 0 [stranded 1 1 2 (some .deliver) 1,
    { stranded 2 2 3 (some .deliver) 3 with next := .step 4 }])

theorem witness_ConfirmClear_order :
    (let x := orderBins [0, 1] blockedBin []
     x.2 = [2] ∧ x.1.stk.sheets.map (·.disposition) = [some .purge, some .deliver]) ∧
    (let out := { moved with state := .runout, disposition := some .deliver, next := .step 3 }
     let t := setDisposition 7 .purge (withSheets .runningOut [out] live)
     t.stk.sheets.map (fun r => (r.disposition, r.next)) = [(some .purge, .purgeExit)]) ∧
    ((beginRunout (withSheets .halting [stranded 1 1 1 (some .purge) 1] live)).stk.path = .halting) ∧
    (let t := enterRunout [2] blockedBin
     t.stk.sheets.map (fun r => (r.state, r.outOfOrder)) = [(.runout, false), (.runout, true)] ∧
       t.li.eTx = some (.runout [(1, .bin 0), (2, .bin 0)])) := by decide +kernel

theorem witness_ConfirmClear_blocked :
    OrderBlocked blockedBin 0 [] (stranded 1 1 2 (some .deliver) 1) ∧ ¬OrderBlocked live 0 [] moved := by
  refine ⟨.inl ⟨_, List.mem_singleton.2 rfl, by decide +kernel, rfl⟩, ?_⟩
  rintro (⟨e, he, -⟩ | ⟨x, hx, -⟩ | ⟨i, hi, -⟩)
  · cases he
  · cases hx
  · cases hi

/-! ## Orders and admission -/

/-- An ORDER of job 1 in slot 0. -/
def orderBytes (route : Byte) (media front : Nat) (backKind : Byte) (back : Nat) (flags : Byte) (set : Nat) : List Byte :=
  [0, 1, 0, route] ++ bytes2 media ++ [0] ++ num3 front ++ [backKind] ++ num3 back ++ [flags] ++ bytes2 set

def orders (s : State) (body : List Byte) : State := { s with li := { s.li with fifo := [Frame.make kindOrder body] } }

/-- The notice an order that is refused leaves, when the U-port is free. -/
def refusal (s : State) (body : List Byte) : Option (OrderRefusal × Option Nat) :=
  match (run .order (orders s body)).li.uTx with
  | some (.notice ⟨_, .orderRefused r _ _ item⟩) => some (r, item)
  | _ => none

theorem notInUse (k : PageKey) : ¬KeyInUse live k := by
  rintro (⟨e, he, -⟩ | ⟨r, hr, -⟩ | ⟨o, l, p, ho, -⟩ | h | h)
  · cases he
  · cases hr
  · cases ho
  · cases h
  · cases h

theorem witness_OrderRefused :
    (Frame.make kindOrder (orderBytes 0 50 1 0 0 0 0)).kind = kindOrder ∧
    refusal idle (orderBytes 0 50 1 0 0 0 0) = some (.mode, none) ∧
    refusal (withJob Job.reset live) (orderBytes 0 50 1 0 0 0 0) = some (.job, none) ∧
    refusal (withOrders (List.replicate 64 (entryOf 1 twoPages)) live) (orderBytes 0 50 1 0 0 0 0) =
      some (.full, none) ∧
    refusal { live with ogt := { live.ogt with seqCounter := 4294967295 } } (orderBytes 0 50 1 0 0 0 0) =
      some (.full, none) := by decide +kernel

/-- An order that fails at each item of R132 in turn, behind an order for the same page. -/
theorem witness_OrderRefused_items :
    let s := withOrders [entryOf 1 onePage] { live with ogt := { live.ogt with compileSet := some ⟨0, 4⟩ } }
    ∀ p ∈ [(orderBytes 15 50 2 0 0 0 0, 1), (orderBytes 0 49 2 0 0 0 0, 2), (orderBytes 0 8001 2 0 0 0 0, 2),
        (orderBytes 0 8000 2 1 3 0 0, 3), (orderBytes 1 50 16777215 2 0 1 0, 4), (orderBytes 1 50 2 1 2 1 0, 5),
        (orderBytes 0 50 2 0 0 1 0, 6), (orderBytes 1 50 2 2 0 1 5, 7), (orderBytes 0 50 1 0 0 0 0, 8)],
      refusal s p.1 = some (.invalid, some p.2) := by decide +kernel

theorem witness_OrderRefused_item (o : OrderBody) (ho : o = orderBody (orderBytes 0 49 2 0 0 0 0)) :
    ¬OrderHolds live o 1 ∧ ∀ m < (1 : Fin 8), OrderHolds live o m := by
  subst ho
  refine ⟨by show ¬(50 ≤ _ ∧ _ ≤ _); decide +kernel, ?_⟩
  intro m hm
  have : m = 0 := by omega
  subst this; show _ = true; decide +kernel

theorem witness_OrderAccepted :
    (let o := orderBody (orderBytes 0 50 1 0 0 0 0)
     ∀ n, OrderHolds live o n) ∧
    (live.pds.mode = .running ∧ live.ogt.jobs[0].state = .opened ∧ live.ogt.orq.length < 64 ∧
      (run .order (orders live (orderBytes 0 50 1 0 0 0 0))).ogt.orq.map (·.seq) = [1] ∧
      (run .order (orders live (orderBytes 1 8000 2 2 0 1 4))).ogt.compileSet = some ⟨0, 4⟩ ∧
      (run .order (orders live (orderBytes 1 8000 2 1 3 3 4))).ogt.compileSet = none) ∧
    (∀ l ∈ [lineOf .filling 1 none, lineOf .ready 1 none, lineOf .released 1 none, lineOf .locked 1 (some 3),
        lineOf .setheld 1 (some 3), lineOf .ready 1 (some 3)],
      (withLines [(4, l)] live).pgd.lookup ⟨0, 1⟩ = some (4, l)) ∧
    ((claimLine 5 ⟨0, 1⟩ (withLines [(4, lineOf .released 1 none)] live)).pgd.lines =
      [(4, lineOf .locked 1 (some 5))]) := by
  refine ⟨?_, by decide +kernel⟩
  intro o n
  fin_cases n
  · show _ = true; decide +kernel
  · show 50 ≤ _ ∧ _ ≤ _; decide +kernel
  · show _ ↔ _; decide +kernel
  · show _ → _; decide +kernel
  · show _ → _; decide +kernel
  · show _ ↔ _; decide +kernel
  · show _ → _; decide +kernel
  · intro k _; exact notInUse k

/-- The gate head is a simplex order whose page is READY. -/
def readyHead : State := withOrders [entryOf 1 onePage] (withLines [(4, lineOf .ready 1 (some 1))] live)

/-- The same behind 23 sheets that hold the slots 0 to 22 and the tags 0 to 22. -/
def crowdedHead : State :=
  withSheets .moving ((List.finRange 23).map fun i => settled (i.castSucc) (BitVec.ofNat 16 i.val) 1 .a) readyHead

theorem witness_AdmitGateHead :
    live.ogt.head = none ∧ readyHead.ogt.head = some (entryOf 1 onePage) ∧
    ((readyHead.pds.mode = .running ∧ readyHead.stk.path = .moving) ∧
      (readyHead.rcc.interlock = none ∧ readyHead.rcc.jam = none) ∧
      readyHead.stk.sheets.length < 24 ∧ readyHead.ogt.interlock = none ∧ readyHead.li.feedPlace = none ∧
      (readyHead.ogt.trays[(0 : Tray)].held = false ∧ readyHead.ogt.trays[(0 : Tray)].empty = false) ∧
      readyHead.dlu.bins[(0 : Bin)].full = false ∧
      ∀ k ∈ onePage.keys, readyHead.pgd.stateOf k = some .ready ∨ readyHead.pgd.stateOf k = some .locked) ∧
    (crowdedHead.stk.sheets.length = 23 ∧ (∀ r ∈ crowdedHead.stk.sheets, r.slot ≠ 23) ∧
      (∀ k < (23 : Fin 24), ∃ r ∈ crowdedHead.stk.sheets, r.slot = k) ∧
      (∀ r ∈ crowdedHead.stk.sheets, r.tag ≠ crowdedHead.ogt.tagCounter + BitVec.ofNat 16 23) ∧
      ∀ j < 23, ∃ r ∈ crowdedHead.stk.sheets, r.tag = crowdedHead.ogt.tagCounter + BitVec.ofNat 16 j) ∧
    ((run .admitGateHead readyHead).stk.sheets.map (fun r => (r.slot, r.tag)) = [(0, 0)] ∧
      (run .admitGateHead crowdedHead).ogt.interlock = some 23 ∧
      (run .admitGateHead (withLines [] readyHead)).stk.sheets = []) := by decide +kernel

theorem witness_AdmitGateHead_withdrawal :
    let s := fun again : Bool => withSheets .moving [{ admitted with reissued := again }] { live with
      li := { live.li with feedPlace := some aFeed, eTx := some .halt }
      ogt := { live.ogt with
        interlock := some 7, admitOrigin := some .set, orq := [entryOf 5 onePage], ril := [entryOf 0 onePage, entryOf 2 onePage] } }
    live.li.feedPlace = none ∧ (s true).sheet? aFeed.tag = some { admitted with reissued := true } ∧
    ((withdrawAdmission (s false)).ogt.orq.map (·.seq) = [1, 5] ∧ (withdrawAdmission (s false)).stk.sheets = []) ∧
    ((withdrawAdmission (s true)).ogt.ril.map (fun e => (e.seq, e.origin)) = [(0, none), (1, some .set), (2, none)] ∧
      (withdrawAdmission (s true)).ogt.interlock = none ∧ (withdrawAdmission (s true)).li.feedPlace = none) := by
  decide +kernel

theorem witness_GateWatch :
    (gateView live = gateView live ∧ gateView live ≠ gateView readyHead ∧ gateView idle ≠ gateView live) ∧
    (readyHead.ogt.head = some (entryOf 1 onePage) ∧ readyHead.pds.mode = .running ∧ idle.pds.mode = .setup) ∧
    (let s := withOrders [entryOf 1 onePage] live
     (onePage.keys.filter fun k => decide (s.pgd.stateOf k = none ∨ s.pgd.stateOf k = some .released)) ≠ [] ∧
       (judgeHead s).ogt.orq.map (·.resend) = [true] ∧ (judgeHead s).li.noticeCounter = 1) ∧
    (let s : State := { live with ogt := { live.ogt with
       ril := [{ entryOf 1 onePage with origin := some .path }]
       trays := live.ogt.trays.set 0 ⟨true, false, false⟩ } }
     (judgeHead s).ogt.trays[(0 : Tray)].supplyReported = true ∧ (judgeHead s).rcc.supply.isSome = true ∧
       (judgeHead s).ogt.ril.map (·.resend) = [true]) := by decide +kernel

/-- The slot that a delivered sheet leaves is a change (R135), in a table that is not full too: a head whose mark a discard has
cleared (R104) asks for its page again (R140). -/
theorem test_freedSlot_judgesHead :
    let s := withOrders [entryOf 5 onePage] (withSheets .moving [settled 0 1 3 .b] { live with
      dlu := { live.dlu with bins := live.dlu.bins.set 0 ⟨false, 0, some 0⟩ } })
    (run (.settleTimerExpiry 0) s).stk.sheets = [] ∧ (run (.settleTimerExpiry 0) s).li.noticeCounter = 1 ∧
      (run (.settleTimerExpiry 0) s).ogt.orq.map (·.resend) = [true] := by decide +kernel

/-- A FEED whose record has ended is withdrawn alone (log 35). -/
theorem witness_AdmitGateHead_recordGone :
    let s : State := { readyHead with
      li := { live.li with feedPlace := some aFeed }, ogt := { readyHead.ogt with interlock := some 7 } }
    s.sheet? aFeed.tag = none ∧ (withdrawAdmission s).li.feedPlace = none ∧ (withdrawAdmission s).ogt = readyHead.ogt := by
  decide +kernel

/-! ## Capture and replay -/

def bandOf (page index : Nat) (final : Bool) : Band := ⟨⟨0, page⟩, index, final, [1, 0, 2]⟩
def bandBytes (page : Nat) (index final : Byte) : List Byte := 0 :: num3 page ++ [index, final, 1, 0, 2]
def bands (s : State) (page : Nat) (index final : Byte) : State :=
  { s with li := { s.li with fifo := [Frame.make kindBand (bandBytes page index final)] } }
def withCre (f : Capture → Capture) (s : State) : State := { s with cre := f s.cre }

theorem witness_BandTaken :
    ((Frame.make kindBand (bandBytes 1 0 1)).kind = kindBand ∧ bandBody (bandBytes 1 0 1) = bandOf 1 0 true ∧
      live.cre.take = none ∧ (withCre (fun c => { c with take := some (bandOf 1 0 true) }) live).cre.take ≠ none) ∧
    ((run .band (bands idle 1 0 1)).li.noticeCounter = 1 ∧ (run .band (bands idle 1 0 1)).cre.write = none) ∧
    (let s := withCre (fun c => { c with write := some (bandOf 2 0 false, 9) }) live
     s.cre.write.isSome = true ∧ (run .band (bands s 1 0 1)).cre.take = some (bandOf 1 0 true)) ∧
    (place ⟨0, 1⟩ 1 true 3 live).2 = none ∧
    (let s := { live with pgd := { live.pgd with free := [0, 1] } }
     (place ⟨0, 1⟩ 0 true 3 s).2 = some 0 ∧ (run .band (bands s 1 0 1)).cre.write = some (bandOf 1 0 true, 0) ∧
       (run .band (bands s 1 0 1)).cre.port = some .capture ∧
       (run .band (bands (withCre (fun c => { c with port := some .replay }) s) 1 0 1)).cre.captureWaiting = true) := by
  decide +kernel

/-- Set 1 with a line in each way, of pages 65, 129, 193 and 257. -/
def setOne (a b c d : LineState) (owner : Option Seq) : List (Nat × Line) :=
  [(4, lineOf a 65 owner), (5, lineOf b 129 (some 3)), (6, lineOf c 193 (some 4)), (7, lineOf d 257 (some 4))]
/-- The gate head's page is page 1, absent; a sheet with sequence 3 or 4 would not be displaced. -/
def wanting (l : List (Nat × Line)) (free : List Nat) : State :=
  let s := withOrders [entryOf 2 onePage] (withLines l live)
  withSheets .moving [settled 0 1 3 .b, settled 1 2 4 .a] { s with pgd := { s.pgd with free := free } }

theorem witness_Placement :
    (let k : PageKey := ⟨0, 1⟩
     let with1 := fun l : Line => withLines [(4, l)] { live with pgd := { live.pgd with free := [2, 3] } }
     let filled := fun n => { lineOf .filling 1 none with chain := List.range' 100 n }
     ({ live with pgd := { live.pgd with latch := some k } } : State).pgd.latch = some k ∧
     (live.pgd.lookup k = none ∧ (place k 1 true 3 live).1.pgd.latch = some k) ∧
     (victim (wanting (setOne .locked .locked .locked .locked (some 4)) []) k = none) ∧
     (victim live k = some 4 ∧ (place k 0 true 3 live).2 = some 0) ∧
     ((place k 1 true 3 (with1 (lineOf .released 1 none))).2 = none ∧
       (place k 0 true 3 (with1 (lineOf .released 1 none))).2 = some 2) ∧
     (∀ st ∈ [LineState.ready, .locked, .setheld, .filling], (place k 0 true 3 (with1 (lineOf st 1 none))).2 = none) ∧
     ((place k 1 false 3 (with1 (filled 1))).2 = some 2 ∧ (place k 127 true 3 (with1 (filled 127))).2 = some 2 ∧
       (place k 127 false 3 (with1 (filled 127))).2 = none ∧ (place k 2 true 3 (with1 (filled 1))).2 = none)) ∧
    Cells.find live.pgd.lines 255 = none ∧
    ((wanting (setOne .locked .locked .locked .locked none) []).pgd.free = [] ∧
      (takeBlock ⟨0, 1⟩ 4 0 3 (wanting [(4, lineOf .filling 1 none), (9, lineOf .ready 2 none)] [])).2 = some 2) := by
  decide +kernel

theorem witness_Placement_fillWay :
    let s := flushed 0 true 0
    ((fillWay ⟨0, 2⟩ 8 s).pgd.stateAt 8 = some .filling ∧ (fillWay ⟨0, 128⟩ 0 s).dlu = s.dlu) ∧
    (let t := fillWay ⟨0, 128⟩ 1 s
     t.pgd.stateAt 1 = some .filling ∧ t.dlu.openSet.map (·.guarded) = some none ∧ t.pgd.stateAt 4 = some .released) ∧
    (live.dlu.openSet = none ∧ (loseProtection ⟨0, 5⟩ s).dlu = s.dlu) := by decide +kernel

/-- A block that cannot be taken clears the head's mark, and the change of the line then asks for the page again. -/
theorem witness_Placement_failing :
    let s := wanting [(4, { lineOf .filling 1 none with chain := [] })] []
    let marked := { s with ogt := { s.ogt with orq := [{ entryOf 2 onePage with resend := true }] } }
    let x := takeBlock ⟨0, 1⟩ 4 0 3 marked
    x.2 = none ∧ x.1.pgd.lines = [] ∧ x.1.ogt.orq.map (·.resend) = [true] ∧
    x.1.li.notices = [⟨1, .resendRequest 2 1 0 false [⟨0, 1⟩]⟩] := by decide +kernel

theorem wanted_head (l : List (Nat × Line)) (free : List Nat) (h : (wanting l free).pgd.stateOf ⟨0, 1⟩ = none ∨
    (wanting l free).pgd.stateOf ⟨0, 1⟩ = some .filling) : Wanted (wanting l free) ⟨0, 1⟩ := by
  refine ⟨⟨_, rfl, List.mem_singleton.2 rfl⟩, ?_, ?_⟩ <;> rcases h with h | h <;> rw [h] <;> decide

theorem not_wanted : ¬Wanted live ⟨0, 1⟩ := by
  rintro ⟨⟨e, he, -⟩, -⟩; cases he

theorem witness_Placement_displacement :
    let s := wanting [(4, lineOf .filling 1 none), (9, lineOf .ready 2 none)] []
    Wanted s ⟨0, 1⟩ ∧ (∃ p ∈ s.pgd.lines, CanDisplace s p.2) ∧ DirectoryOk s.pgd := by
  refine ⟨wanted_head _ _ (.inr (by decide +kernel)), ⟨(9, lineOf .ready 2 none), ?_, ⟨?_, rfl, .inl rfl⟩⟩, ?_⟩
  · decide +kernel
  · exact .inl rfl
  · exact ⟨by decide +kernel, by decide +kernel, by decide +kernel⟩

theorem witness_VictimChoice :
    (let at_ := fun l => (wanting l []).pgd.stateAt
     at_ ((setOne .ready .locked .ready .ready none).drop 1) 4 = none ∧
     (at_ (setOne .released .locked .ready .ready none) 4 = some .released ∧
       (wanting (setOne .released .locked .ready .ready none) []).pgd.bitsOf 1 = ⟨false, false, false⟩) ∧
     (at_ (setOne .ready .locked .ready .released none) 4 ≠ some .released ∧
       victim (wanting (setOne .ready .locked .ready .released none) []) ⟨0, 1⟩ = some 7) ∧
     (victim (wanting (setOne .ready .setheld .setheld .ready none) []) ⟨0, 1⟩ = some 5) ∧
     (victim (wanting (setOne .ready .locked .locked .locked none) []) ⟨0, 1⟩ = some 4) ∧
     (victim (wanting (setOne .ready .locked .locked .locked (some 9)) []) ⟨0, 1⟩ = some 4) ∧
     (victim (wanting (setOne .filling .locked .locked .locked none) []) ⟨0, 1⟩ = none)) ∧
    (∀ i, i / 4 = setOf ⟨0, 1⟩ → (wanting (setOne .ready .locked .locked .locked none) []).pgd.stateAt i ≠ none) := by
  refine ⟨by decide +kernel, ?_⟩
  intro i hi
  have h4 : setOf ⟨0, 1⟩ = 1 := rfl
  have : i = 4 ∨ i = 5 ∨ i = 6 ∨ i = 7 := by omega
  rcases this with h | h | h | h <;> subst h <;> decide +kernel

/-- Of equal rank the lowest way is displaced: three ownerless lines, two lines of one owner; a touched way is not pointed to. -/
theorem witness_VictimChoice_equalRank :
    let ways := fun a b c d : Option Seq =>
      wanting [(4, lineOf .ready 65 a), (5, lineOf .locked 129 b), (6, lineOf .ready 193 c), (7, lineOf .locked 257 d)] []
    victim (ways (some 9) none none none) ⟨0, 1⟩ = some 5 ∧ victim (ways (some 5) (some 9) (some 9) (some 7)) ⟨0, 1⟩ = some 5 ∧
    ∀ w : Fin 4, ((live.pgd.touch (4 + w.val)).bitsOf 1).pointed ≠ w.val := by decide +kernel

theorem witness_VictimChoice_directory : DirectoryOk (wanting (setOne .ready .locked .locked .locked none) []).pgd :=
  ⟨by decide +kernel, by decide +kernel, by decide +kernel⟩

/-- A final band of page 1 is being written to block 5. -/
def writing (take : Option Band) (s : State) : State :=
  withCre (fun c => { c with write := some (bandOf 1 0 true, 5), take := take, port := some .capture })
    (withLines [(4, lineOf .filling 1 none)] { s with pgd := { s.pgd with free := [8] } })

theorem witness_WriteTransferEnd :
    (live.cre.port ≠ some .capture ∧ Memory.wf live.cre.dram) ∧
    (let t := run .writeTransferEnd (writing none live)
     (Memory.read t.cre.dram 163840, Memory.read t.cre.dram 163841, Memory.read t.cre.dram 163842) = (1, 0, 2) ∧
       t.cre.dram.length = 2 ∧ t.cre.lengths = [(5, 3)] ∧ t.pgd.stateOf ⟨0, 1⟩ = some .ready ∧ t.cre.port = none) ∧
    ((run .writeTransferEnd (writing (some (bandOf 2 0 true)) idle)).cre.port = none ∧
      (run .writeTransferEnd (writing (some (bandOf 2 0 true)) live)).cre.write = some (bandOf 2 0 true, 8) ∧
      (run .writeTransferEnd (writing (some (bandOf 2 1 true)) live)).cre.write = none) := by decide +kernel

def pageReady (st : LineState) (s : State) : State := withLines [(4, lineOf st 1 (some 1))] s

theorem witness_Call :
    (idle.pds.mode = .setup ∧ (withSheets .halting [moved] live).stk.path = .halting ∧
      (withSheets .halted [moved] live).stk.path = .halted) ∧
    (live.pds.mode = .running ∧ live.sheet? 7 = none ∧ (run (.call 7 .front) live).rcc.jam.isSome = true) ∧
    (let s := pageReady .locked (withSheets .moving [moved] live)
     s.sheet? 7 = some moved ∧ s.pgd.stateOf ⟨0, 1⟩ = some .locked ∧
       (run (.call 7 .front) s).cre.reader = .streaming aCall [1] 0 ∧
       (run (.call 7 .back) s).rcc.jam.isSome = true ∧
       (run (.call 7 .front) (withCre (fun c => { c with reader := .draining }) s)).cre.pendingCall = some aCall ∧
       (run (.call 7 .front) (withCre (fun c => { c with
         reader := .draining, pendingCall := some { aCall with tag := 9 } }) s)).rcc.jam.isSome = true ∧
       (run (.call 7 .front) (withCre (fun c => { c with pendingCall := some aCall }) s)).rcc.jam.isSome = true) ∧
    (let s := withSheets .runningOut [moved] live
     s.pgd.stateOf ⟨0, 1⟩ ≠ some .ready ∧ s.pgd.stateOf ⟨0, 1⟩ ≠ some .locked) ∧
    (let r := { moved with sides := .front, snap := twoPages }
     let s := withLines [(12, lineOf .ready 3 (some 1))] (withSheets .moving [r] live)
     (run (.call 7 .back) s).cre.reader = .streaming ⟨7, .back, ⟨0, 3⟩⟩ [3] 0) := by decide +kernel

def stored (s : State) : State :=
  withCre (fun c => { c with dram := Memory.writeRun [] 32768 [4, 5], lengths := [(1, 2)] }) s

theorem witness_ReadTransferEnd :
    (live.cre.port ≠ some .replay ∧ live.cre.buffer = none) ∧
    (let s := reading (.streaming aCall [1, 2] 0) (some .replay) (stored live)
     let full := { s with li := { s.li with eTx := some .halt, bandoutPlace := some aBand } }
     (run .readTransferEnd s).li.eTx = some (.bandout ⟨7, .front, 0, false, [4, 5]⟩) ∧
       (run .readTransferEnd full).cre.buffer = some ⟨0, false, [4, 5]⟩ ∧ full.li.bandoutPlace ≠ none ∧
       (run .bandoutGiven (withCre (fun c => { c with buffer := some ⟨0, false, [4]⟩, port := none }) s)).li.eTx =
         some (.bandout ⟨7, .front, 0, false, [4]⟩)) ∧
    (let s := reading .draining (some .replay) (pageReady .ready live)
     (run .readTransferEnd s).cre.reader = .idle ∧
       (run .readTransferEnd (withCre (fun c => { c with pendingCall := some aCall }) s)).cre.reader =
         .streaming aCall [1] 0) := by decide +kernel

theorem witness_BandoutSent :
    (let s := reading (.streaming aCall [1] 1) none
       (withSheets .moving [moved] (pageReady .ready (sendingE live (.bandout aBand))))
     (aBand.final = true ∧ aBand.tag = aCall.tag ∧ aBand.side = aCall.side) ∧
       (run .bandoutSent s).cre.reader = .idle ∧ (run .bandoutSent s).pgd.stateOf ⟨0, 1⟩ = some .locked ∧
       (run .bandoutSent s).stk.sheets.map (·.sides) = [.front] ∧
       (run .bandoutSent (withCre (fun c => { c with pendingCall := some { aCall with tag := 9 } }) s)).cre.reader =
         .streaming { aCall with tag := 9 } [1] 0) ∧
    (sendingE live (.bandout { aBand with final := false })).li.eTx = some (.bandout { aBand with final := false }) ∧
    (live.pgd.lookup ⟨0, 1⟩ = none ∧ effectiveClass live ⟨0, 1⟩ = .full ∧
      effectiveClass (withJob { openJobEntry with cls := .none } live) ⟨0, 1⟩ = .none ∧
      (pageReady .ready live).pgd.lookup ⟨0, 1⟩ = some (4, lineOf .ready 1 (some 1)) ∧
      (imagingDoneLine ⟨0, 1⟩ (withLines [(4, { lineOf .ready 1 (some 1) with invalidateOnUnpin := true })] live)).pgd.lines =
        []) := by decide +kernel

theorem witness_PortArbiter :
    (live.cre.port = none ∧ live.cre.waiting Holder.replay.other = false) ∧
    (let c := { live.cre with port := some .replay, lastHolder := some .replay, captureWaiting := true, run := 6 }
     c.port.isSome = true ∧ c.waiting Holder.replay.other = true ∧ c.run + 1 < 8 ∧ ¬c.run + 1 < 7 ∧
       (Capture.boundary 8 .replay true c).port = some .replay ∧
       (Capture.boundary 7 .replay true c).port = some .capture ∧
       (Capture.boundary 8 .replay false c).port = some .capture) := by decide +kernel

/-! ## Engine status -/

def emptyTray (t : Tray) (s : State) : State :=
  { s with ogt := { s.ogt with trays := upd s.ogt.trays t fun f => { f with empty := true } } }
def fullBin (b : Bin) (s : State) : State :=
  { s with dlu := { s.dlu with bins := upd s.dlu.bins b fun x => { x with full := true } } }

theorem witness_EngineStatus :
    (live.ogt.trays[(5 : Tray)].empty = false ∧ (emptyTray 5 live).ogt.trays[(5 : Tray)].empty = true ∧
      (run (.trayEmpty 5 []) live).ogt.trays[(5 : Tray)].empty = true ∧
      (run (.trayFilled 5 []) (emptyTray 5 live)).ogt.trays[(5 : Tray)].empty = false) ∧
    (live.dlu.bins[(0 : Bin)].full = false ∧ (fullBin 0 live).dlu.bins[(0 : Bin)].full = true ∧
      (run (.binCleared 0 []) (fullBin 0 live)).dlu.bins[(0 : Bin)].full = false) ∧
    (live.staged 0 .a = none ∧ live.staged 0 .b = none ∧ (run (.binFull 0 []) live).rcc.supply.isSome = true ∧
      (run (.binFull 0 []) live).rcc.jam = none ∧ (run (.binFull 0 []) idle).rcc.supply = none) ∧
    (let s := withSheets .moving [settled 0 1 3 .a] live
     (s.staged 0 .a).isSome = true ∧ (run (.binFull 0 []) s).rcc.jam.isSome = true) ∧
    ((run (.engineFault [9]) live).rcc.jam.map (·.first) = some .engine ∧
      compileBin live = some 1 ∧ compileBin live ≠ some 0 ∧
      (run (.compileFault 1 []) live).rcc.jam.map (·.setPurge) = some true ∧
      (run (.compileFault 0 []) live).rcc.jam = none ∧ unread live [] = true ∧
      (run (.engstatUnread [8]) live).li.uTx = some (.engstat (Frame.make kindEngstat [8]))) ∧
    (let f := Frame.make kindEngstat [8]
     let busy := (sending live (.reply aReply)).li
     ({ busy with upward := List.replicate 7 f } : Link).upward.length < 8 ∧
       8 ≤ ({ busy with upward := List.replicate 8 f } : Link).upward.length ∧ busy.uTx.isSome = true) := by
  decide +kernel

def openedSet : OpenSet := ⟨1, 0, 4, 0, 1, 2, 2, true, some [⟨1, 0, twoPages⟩, ⟨2, 0, twoPages⟩]⟩
def withSet (o : OpenSet) (s : State) : State := { s with dlu := { s.dlu with openSet := some o } }

theorem witness_SetEjected :
    (live.dlu.openSet = none ∧ (withSet openedSet live).dlu.openSet = some openedSet ∧ openedSet.bin ≠ 0 ∧
      openedSet.bin = 1) ∧
    (let t := run (.setEjected 1 []) (withSet openedSet (withJob { openJobEntry with set := 2 } live))
     (t.dlu.openSet, t.dlu.bins[(1 : Bin)].lastDelivered, t.ogt.jobs[0].delivered) = (none, 2, 2)) := by decide +kernel

/-- Two sheets of the open set settle in the compile bin behind it. -/
def purging (o : OpenSet) : State :=
  withSheets .halted [compiling 0 11 11 .b, compiling 1 12 12 .a] (withSet o (withLines [(4, heldLine 1 1)]
    (withJob { openJobEntry with stt := 2, set := 2 } live)))

theorem witness_SetEjected_purge :
    compileBin live = some 1 ∧ compileBin State.reset = none ∧ (purgeQueue (purging openedSet)).2 = [(11, 11), (12, 12)] ∧
    (let t := purgeSet (purging openedSet)
     t.dlu.openSet = none ∧ t.ogt.ril.map (fun e => (e.seq, e.origin)) = [(1, some .set), (2, some .set)] ∧
       t.ogt.jobs[0].set = 0 ∧ t.pgd.stateOf ⟨0, 1⟩ = some .locked ∧
       (purgeSet (purging { openedSet with before := 0, last := 9 })).dlu.bins[(1 : Bin)].lastDelivered = 0) ∧
    (let t := purgeSet (purging { openedSet with guarded := none })
     t.dlu.openSet = none ∧ t.ogt.ril = [] ∧ t.ogt.jobs[0].removed = 2 ∧ t.pgd.stateOf ⟨0, 1⟩ = some .released ∧
       t.li.uTx = some (.notice ⟨0, .setLost 0 4⟩)) ∧
    insertEntry (entryOf 2 onePage) [entryOf 1 onePage, entryOf 3 onePage] =
      [entryOf 1 onePage, entryOf 2 onePage, entryOf 3 onePage] := by decide +kernel

/-! ## Sensing and time -/

theorem test_two_equal_samples_are_an_edge :
    let s := run (.checkpointSampleInstant 0x800000) (run (.checkpointSampleInstant 0x800000) live)
    s.ckm.edges = [[⟨23, .lead, 0⟩]] ∧ (run (.checkpointSampleInstant 0x800000) live).ckm.edges = [] := by decide +kernel

theorem witness_WallTick :
    (live.ckm.coverTicks + 1 < live.pds.timing.coverSampleMs ∧ ¬4 + 1 < live.pds.timing.coverSampleMs) ∧
    (let s := { live with ckm := { live.ckm with coverTicks := 4, cvLast := some 1, stillCount := 29 } }
     (run (.wallTick 1) s).ckm.coverEvents = [⟨0, true⟩] ∧ (run (.wallTick 1) s).ckm.stillDue = 1 ∧
       (run (.wallTick 1) s).ckm.coverTicks = 0) := by decide +kernel

theorem witness_TransportPulses :
    (let s := run .tpEdge { live with ckm := { live.ckm with partialCount := 3, tc := 5119 } }
     s.ckm.partialCount = 0 ∧ s.ckm.tc = 5120 ∧ s.ckm.advances = [5120] ∧
      (run .tpEdge { live with ckm := { live.ckm with partialCount := 2 } }).ckm.partialCount = 3) ∧
    live.ckm.advances = [] ∧
    (let s := withSheets .moving [admitted] { live with ckm := { live.ckm with advances := [21, 22], tc := 22 } }
     (run .countAdvance s).ckm.advances = [22] ∧ (run .countAdvance s).stk.due = [.lead 7 0]) ∧
    (moved.state = .moving ∧ admitted.state = .admitted ∧
      expiriesOf live.pds .moving 41 moved = [.lead 7 1] ∧
      expiriesOf live.pds .moving 55 moved = [.trail 7 ⟨0, .step 0, 0, 0⟩] ∧
      (let out := { moved with state := .runout, runoutStamp := some 0 }
       expiriesOf live.pds .runningOut 8001 out = [.runout 7 0] ∧
         expiriesOf live.pds .runningOut 55 { out with next := .purgeDone } = [.trail 7 ⟨0, .step 0, 0, 0⟩] ∧
         out.next ≠ .step 4 ∧ out.next ≠ .purgeDone) ∧
      (settled 0 1 3 .a).state = .settling) := by decide +kernel

def halted (s : State) : State := { s with ckm := { s.ckm with stillDue := 1 } }

theorem witness_PathStill :
    (live.ckm.stillDue = 0 ∧ (halted live).ckm.stillDue = 1 ∧ (halted live).stk.path ≠ .halting) ∧
    (let s := halted (withSheets .halting [moved] live)
     (run .pathStill s).stk.path = .halted ∧ (run .pathStill s).rcc.jam.map (·.first) = some .stopStrand ∧
       (run .pathStill s).stk.sheets.map (·.state) = [.stranded] ∧
       (run .pathStill (withJam .stop s)).rcc.jam.map (·.phase) = some .clearance) ∧
    (run .pathStill (halted (withSheets .halting [settled 0 1 3 .a] live))).rcc.jam = none := by decide +kernel

def assessing (sheets : List Sheet) : State := withJam .stop (withSheets .halted sheets live)

theorem witness_PathStill_assess :
    let imaged := { stranded 1 1 1 none 1 with next := .step 2 }
    let finished := { stranded 2 2 2 none 2 with next := .step 3, sides := .front }
    let past := { finished with slot := 3, tag := 3, next := .step 4 }
    let kept := { finished with slot := 4, tag := 4, disposition := some .purge }
    let s := assessing [stranded 0 0 0 none 0, imaged, finished, past, kept, { stranded 5 5 5 none 0 with next := .step 0 }]
    (enterAssess s).stk.sheets.map (·.disposition) =
      [some .purge, some .manual, some .deliver, some .manual, some .purge, some .purge] ∧
    (enterAssess s).rcc.jam.map (·.phase) = some .clearance ∧
    (haltedReport s).rcc.jam.map (·.phase) = some .clearance ∧
    (resumeClearance s).stk.sheets.map (·.disposition) = [none, none, none, none, some .purge, none] ∧
    ((haltedReport (withJam .clearance s)).rcc.jam.map (·.phase) = some .clearance) := by decide +kernel

theorem witness_PathStill_rebuild :
    let jam := { incident .active .runout .late with runoutDone := true, setPurge := true }
    let s := { reissued 0 (purging openedSet) with rcc := { live.rcc with jam := some jam } }
    let l := withLines [(4, { lineOf .released 1 none with key := ⟨0, 1⟩ })] s
    ((haltedReport s).rcc.jam = none ∧ (haltedReport s).dlu.openSet = none ∧
      (haltedReport s).stk.sheets = [] ∧ (haltedReport s).stk.path = .moving) ∧
    ((rebuildWork s).li.uTx =
      some (.notice ⟨0, .removeRequest .compileTray 1 [(11, 11), (12, 12)] (some ⟨0, 4, 2⟩)⟩)) ∧
    ((relockLine 1 ⟨0, 1⟩ l).pgd.lines = [(4, { lineOf .locked 1 (some 1) with key := ⟨0, 1⟩ })] ∧
      (relockReissues l).pgd.stateOf ⟨0, 1⟩ = some .locked ∧ s.pgd.stateOf ⟨0, 1⟩ ≠ some .released) ∧
    ((purgeCompile (withJam .rebuild State.reset)).li.noticeCounter = 0) := by decide +kernel

def coverWaits (c : Cover) (opened : Bool) (s : State) : State :=
  { s with ckm := { s.ckm with coverEvents := [⟨0, true⟩, ⟨c, opened⟩] } }
def withInterlock (p : Phase) (timer : Option Nat) (s : State) : State :=
  { s with rcc := { s.rcc with interlock := some (incident .active p .coverOpen), coverTimer := timer } }

theorem witness_Covers :
    ((coverWaits 5 true live).ckm.coverEvents = [⟨0, true⟩] ++ ⟨5, true⟩ :: [] ∧
      ∀ x ∈ ([⟨0, true⟩] : List CoverEvent), x.cover ≠ 5) ∧
    (∀ first ∈ [true, false],
      (run (.coverOpen 5 first) (coverWaits 5 true live)).rcc.active = some .interlock ∧
      (run (.coverOpen 5 first) (coverWaits 5 true (withSheets .moving [moved] live))).rcc.jam.isSome = true ∧
      (run (.coverOpen 5 first) (coverWaits 5 true live)).rcc.jam = none) ∧
    (let s := withInterlock .opened none live
     (run (.coverShut 5) (coverWaits 5 false s)).rcc.coverTimer = some 500 ∧
       (run (.coverShut 5) (coverWaits 5 false live)).rcc.coverTimer = none ∧
       (run (.coverShut 5) (coverWaits 5 false { s with ckm := { s.ckm with cvHeld := 1 } })).rcc.coverTimer = none) ∧
    (let s := withInterlock .shutWait (some 0) live
     s.rcc.coverTimer = some 0 ∧ s.rcc.activeIn .interlock .shutWait = true ∧
       (run .coverSettleExpiry s).rcc.interlock = none ∧
       (run .coverSettleExpiry (withInterlock .shutWait (some 1) live)).rcc.interlock.isSome = true) := by
  decide +kernel

/-! ## Tracking -/

/-- An edge of `c` with stamp `n` waits behind one of another checkpoint of the same instant; one of a later instant follows. -/
def edgeWaits (c : Checkpoint) (d : EdgeDir) (n : Count) (s : State) : State :=
  { s with ckm := { s.ckm with edges := [[⟨9, .trail, 0⟩, ⟨c, d, n⟩], [⟨8, .lead, n⟩]] } }

theorem edgeWaits_holds (c : Checkpoint) (d : EdgeDir) (n : Count) (s : State) (hp : s.porst = false) (hc : c ≠ 9) :
    EdgeWaits (edgeWaits c d n s) c ⟨c, d, n⟩ [⟨9, .trail, 0⟩] [] [[⟨8, .lead, n⟩]] :=
  ⟨hp, rfl, by simpa using hc.symm, rfl⟩

/-- No edge of CK8 is taken while the earlier instant waits, whose edges are taken in either order. -/
theorem test_edges_of_one_instant_first :
    let s := edgeWaits 1 .lead 5 (withSheets .moving [moved] live)
    (run (.leadEdge 8) s).ckm.edges = s.ckm.edges ∧ (run (.trailEdge 1) s).ckm.edges = s.ckm.edges ∧
    (run (.leadEdge 1) s).ckm.edges = [[⟨9, .trail, 0⟩], [⟨8, .lead, 5⟩]] ∧
    (run (.trailEdge 9) (run (.leadEdge 1) s)).ckm.edges = [[⟨8, .lead, 5⟩]] := by decide +kernel

theorem witness_edge_none_now (s : State) : NoEdgeNow (edgeWaits 1 .lead 5 s) 8 := by
  intro now later h
  cases h
  decide

def jamCause (c : Instr) (s : State) : Option (Cause × Option Checkpoint × Option Tag) :=
  (run c s).rcc.jam.bind fun i => i.details.head?.map fun d => (i.first, d.ck, d.tag)

/-- A sheet that expects CK1 from count 5 on, and covers as many checkpoints as `ock` lists. -/
def expecting (tag : Tag) (ock : List Checkpoint) : Sheet :=
  { moved with tag := tag, occupied := ock.map fun c => ⟨c, .step 0, 0, 0⟩ }

def leadAt (path : PathState) (sheets : List Sheet) (n : Count) : State :=
  edgeWaits 1 .lead n (withSheets path sheets live)

theorem witness_LeadEdge :
    (run (.leadEdge 1) (leadAt .halted [moved] 5)).stk.levels = 2 ∧
    (jamCause (.leadEdge 1) (leadAt .moving [expecting 8 [1]] 5) = some (.phantom, some 1, some 8) ∧
      jamCause (.leadEdge 1) (leadAt .halting [expecting 8 [1]] 5) = none) ∧
    jamCause (.leadEdge 1) (leadAt .runningOut [] 5) = some (.phantom, some 1, none) ∧
    (run (.leadEdge 1) (leadAt .halted [moved] 5)).stk.sheets = [moved] := by decide +kernel

theorem witness_LeadEdge_none_may_take :
    jamCause (.leadEdge 1) (leadAt .moving [moved] 4) = some (.early, some 1, some 7) ∧
    jamCause (.leadEdge 1) (leadAt .moving [moved] 0x80000000) = some (.early, some 1, some 7) ∧
    jamCause (.leadEdge 1) (leadAt .moving [expecting 7 [20, 21, 22]] 5) = some (.stuck, some 20, some 7) := by
  decide +kernel

/-- A JAM at the exit checkpoint CK3 of bin B0 marks B0's stage A sheet; one at another checkpoint marks none. -/
theorem witness_LeadEdge_exit :
    let marks := fun c => (raiseAt .phantom c none
      (withSheets .moving [settled 0 1 3 .b, settled 1 2 4 .a] live)).stk.sheets.map (·.suspect)
    marks 3 = [false, true] ∧ marks 1 = [false, false] ∧
    (raiseAt .phantom 3 none (withSheets .moving [settled 1 2 4 .a] idle)).stk.sheets.map (·.suspect) = [false] := by
  decide +kernel

theorem witness_LeadEdge_match :
    ((run (.leadEdge 1) (leadAt .moving [moved] 5)).stk.sheets.map (·.occupied.length) = [2] ∧
      (run (.leadEdge 1) (leadAt .halting [moved] 0x7FFFFFFF)).stk.sheets.map (·.next) = [.step 2] ∧
      (run (.leadEdge 1) (leadAt .moving [expecting 7 [20, 21]] 5)).stk.sheets.map (·.occupied.length) = [3]) ∧
    (let s := { withSheets .moving [admitted] live with ogt := { live.ogt with interlock := some 7 } }
     (run (.leadEdge 0) (edgeWaits 0 .lead 0 s)).ogt.interlock = none ∧
       (run (.leadEdge 0) (edgeWaits 0 .lead 0 s)).stk.sheets.map (·.state) = [.moving]) := by decide +kernel

theorem witness_LeadEdge_hypotheses :
    EdgeWaits (edgeWaits 1 .lead 5 (withSheets .moving [moved] live)) 1 ⟨1, .lead, 5⟩ [⟨9, .trail, 0⟩] [] [[⟨8, .lead, 5⟩]] ∧
    RaisesFaults live ∧
    MayTake (withSheets .moving [moved] live) 5 moved ∧ MayTake (withSheets .moving [moved] live) 0x7FFFFFFF moved := by
  refine ⟨edgeWaits_holds _ _ _ _ rfl (by decide), .inl rfl, .inr ⟨1, stepOf 1 5 40 .imaged .front false false, rfl, ?_⟩,
    .inr ⟨1, stepOf 1 5 40 .imaged .front false false, rfl, ?_⟩⟩ <;> decide +kernel

/-- A sheet whose last covered checkpoint is the exit CK3. -/
def leaving : Sheet := { moved with next := .step 4, occupied := [⟨3, .step 3, 20, 20⟩], sides := .front }

theorem witness_TrailEdge :
    let at_ := fun path sheets => edgeWaits 3 .trail 90 (withSheets path sheets live)
    ((run (.trailEdge 3) (at_ .halted [leaving])).stk.sheets = [leaving]) ∧
    (jamCause (.trailEdge 3) (at_ .moving []) = some (.trailFault, some 3, none) ∧
      jamCause (.trailEdge 3) (at_ .halting []) = none) ∧
    ((run (.trailEdge 0) (edgeWaits 0 .trail 90 (withSheets .moving [moved] live))).stk.sheets.map (·.occupied) = [[]]) ∧
    ((run (.trailEdge 3) (at_ .moving [leaving])).stk.sheets.map (fun r => (r.state, r.stage)) =
      [(.settling, some .a)]) ∧
    (jamCause (.trailEdge 3) (at_ .halting [{ leaving with sides := .none }]) = some (.callFault, some 3, some 7)) ∧
    (let out := { leaving with outOfOrder := true, state := .runout, runoutStamp := some 0, disposition := some .deliver }
     (run (.trailEdge 3) (at_ .runningOut [out])).ogt.ril.map (fun e => (e.seq, e.origin)) = [(1, some .path)]) ∧
    (let out := { leaving with
       occupied := [⟨7, .purgeExit, 20, 20⟩], next := .purgeDone, state := .runout, disposition := some .purge }
     (run (.trailEdge 7) (edgeWaits 7 .trail 90 (withSheets .runningOut [out] live))).stk.sheets = [] ∧
       (run (.trailEdge 7) (edgeWaits 7 .trail 90 (withSheets .runningOut [out] live))).ogt.jobs[0].purged = 1) := by
  decide +kernel

def lastDelivered (b : Bin) (q : Seq) (s : State) : State :=
  { s with dlu := { s.dlu with bins := upd s.dlu.bins b fun x => { x with lastDelivered := q } } }

theorem witness_HandOver :
    (let s := withSheets .moving [{ settled 1 1 2 .a with suspect := true }, leaving] live
     s.frozen 0 = true ∧ (handOver 3 leaving s).rcc.jam.map (·.first) = some .sequence) ∧
    (let s := withSheets .moving [leaving] live
     s.frozen 0 = false ∧ joinFailure 0 s = none ∧ s.highMark 0 = 0 ∧ leaving.seq = 1 ∧
       (handOver 3 leaving s).dlu.bins[(0 : Bin)].timer = some 400 ∧
       (handOver 3 leaving (lastDelivered 0 1 s)).rcc.jam.map (·.first) = some .sequence) ∧
    (let s := withSet openedSet (withSheets .moving [compiling 0 1 3 .b] live)
     joinFailure 1 s = some (compiling 0 1 3 .b) ∧
       ((markSuspect 1 s).frozen 1 = true) ∧
       (raiseJam .compile none (some 1) (some (.bin 1)) (markSuspect 1 s)).frozen 1 = true) ∧
    (live.staged 0 .b = none ∧
      (let s := withSheets .moving [settled 0 1 3 .b] (withJob { openJobEntry with stt := 1 } live)
       s.staged 0 .b = some (settled 0 1 3 .b) ∧ isCompile s 0 = false ∧
         (leaveB 0 s).dlu.bins[(0 : Bin)].lastDelivered = 3 ∧ (leaveB 0 s).ogt.jobs[0].delivered = 1) ∧
      (let s := withSheets .moving [compiling 0 1 3 .b] (withJob { openJobEntry with stt := 1 } live)
       s.staged 1 .b = some (compiling 0 1 3 .b) ∧ isCompile s 1 = true ∧ (leaveB 1 s).ogt.jobs[0].set = 1 ∧
         (leaveB 1 s).dlu.openSet = some ⟨1, 0, 4, 0, 3, 3, 1, false, some [⟨3, 0, twoPages⟩]⟩)) ∧
    (let o := { openedSet with endCompiled := false }
     let long := { o with guarded := some (List.replicate 96 ⟨1, 0, twoPages⟩) }
     let short := { o with guarded := some (List.replicate 95 ⟨1, 0, twoPages⟩) }
     let guard := fun o => ((joinSet 1 (compiling 0 1 3 .b) (withSet o live)).dlu.openSet).map fun o =>
       o.guarded.map (·.length)
     guard short = some (some 96) ∧ guard long = some none ∧ guard { o with guarded := none } = some none ∧
       guard o = some (some 3)) := by decide +kernel

theorem witness_HandOver_table : TableOk (withSheets .moving [compiling 0 1 3 .b] live).stk :=
  ⟨by decide +kernel, by decide +kernel, by decide +kernel, by decide +kernel⟩

theorem witness_HandOver_lines :
    let s := withLines [(4, lineOf .locked 1 (some 3)), (8, lineOf .locked 2 (some 4)), (12, lineOf .ready 3 (some 3))] live
    let states := fun t : State => t.pgd.lines.map fun p => p.2.state
    states (releaseOwner 3 s) = [.released, .locked, .ready] ∧
    states (compileOwner 3 ⟨0, 4⟩ true s) = [.setheld, .locked, .ready] ∧
    states (compileOwner 3 ⟨0, 4⟩ false s) = [.released, .locked, .ready] ∧
    (compileOwner 3 ⟨0, 4⟩ true s).pgd.lines.map (fun p => p.2.setTag) = [some ⟨0, 4⟩, none, none] := by decide +kernel

def due (x : Expiry) (path : PathState) (sheets : List Sheet) : State :=
  { withSheets path sheets live with stk := { (withSheets path sheets live).stk with due := [x] } }

theorem witness_Deadlines :
    (jamCause .leadWindowExpiry (due (.lead 7 1) .moving [moved]) = some (.late, some 1, some 7) ∧
      (run .leadWindowExpiry (due (.lead 7 0) .moving [moved])).stk.due = [] ∧
      (run .leadWindowExpiry (due (.lead 7 0) .moving [admitted])).rcc.misfeed = none ∧
      (run .leadWindowExpiry (due (.lead 7 0) .moving [admitted])).ogt.ril.map (fun e => (e.origin, e.retries)) =
        [(some .misfeed, 1)]) ∧
    (jamCause .trailDeadlineExpiry (due (.trail 7 ⟨0, .step 0, 0, 0⟩) .moving [moved]) = some (.stuck, some 0, some 7) ∧
      jamCause .trailDeadlineExpiry (due (.trail 7 ⟨2, .step 0, 0, 0⟩) .moving [moved]) = none) ∧
    (let out := { moved with state := .runout, runoutStamp := some 5 }
     (run .runoutDeadlineExpiry (due (.runout 7 5) .runningOut [out])).stk.sheets = [] ∧
       (run .runoutDeadlineExpiry (due (.runout 7 4) .runningOut [out])).stk.sheets = [out]) := by decide +kernel

/-- RUNNING_OUT with the JAM in RUNOUT: a later DELIVER sheet that can be diverted, one that is past, and one that settles. -/
def running (sheets : List Sheet) : State := withJam .runout (withSheets .runningOut sheets live)
def out (slot : Fin 24) (tag : Tag) (q : Seq) (next : Nat) : Sheet :=
  { moved with slot := slot, tag := tag, seq := q, state := .runout, disposition := some .deliver, next := .step next }

theorem witness_Deadlines_absence :
    let s := running [out 2 2 2 3, out 3 3 3 4, settled 4 4 4 .a]
    (s.rcc.jam = some (incident .active .runout .late) ∧ (out 1 1 1 2).disposition = some .deliver) ∧
    (let t := absenceReport (out 1 1 1 2) 0 false s
     t.stk.sheets.map (fun r => (r.disposition, r.next, r.outOfOrder, r.suspect)) =
       [(some .purge, .purgeExit, false, false), (some .deliver, .step 4, true, false), (none, .step 4, false, true)] ∧
       t.li.eTx = some (.divert 2)) ∧
    ((absenceReport (out 1 1 1 2) 0 true s).stk = s.stk ∧ (absenceReport (out 1 1 1 2) 0 false live).stk = live.stk) ∧
    ((divert s 4).stk = s.stk ∧ (divert s 2).li.eTx = some (.divert 2) ∧
      (divert s 3).stk.sheets.map (·.outOfOrder) = [false, true, false]) ∧
    ((checkRunoutComplete (running [settled 4 4 4 .a])).stk.path = .halting ∧
      (checkRunoutComplete (running [settled 4 4 4 .a])).rcc.jam.map (·.runoutDone) = some true ∧
      (checkRunoutComplete s).stk.path = .runningOut ∧
      (checkRunoutComplete (withSheets .runningOut [] live)).stk.path = .runningOut) := by decide +kernel

theorem witness_Deadlines_order : [out 2 2 2 3, out 3 3 3 4].Pairwise (fun x y => x.seq < y.seq) ∧
    TableOk (running [out 2 2 2 3, { out 3 3 3 4 with occupied := [⟨5, .step 3, 0, 0⟩] }]).stk :=
  ⟨by decide +kernel, by decide +kernel, by decide +kernel, by decide +kernel, by decide +kernel⟩

def timed (b : Bin) (t : Option Nat) (s : State) : State :=
  { s with dlu := { s.dlu with bins := upd s.dlu.bins b fun x => { x with timer := t } } }

theorem witness_SettleTimerExpiry :
    ((timed 0 (some 1) live).dlu.bins[(0 : Bin)].timer ≠ some 0 ∧ (timed 0 (some 0) live).dlu.bins[(0 : Bin)].timer = some 0) ∧
    (let s := fun sheets => timed 0 (some 0) (withSheets .moving sheets live)
     (run (.settleTimerExpiry 0) (s [settled 0 1 3 .b])).dlu.bins[(0 : Bin)].timer = none ∧
       (run (.settleTimerExpiry 0) (s [settled 0 1 3 .b])).dlu.bins[(0 : Bin)].lastDelivered = 3 ∧
       (run (.settleTimerExpiry 0) (s [settled 0 1 3 .b, settled 1 2 4 .a])).dlu.bins[(0 : Bin)].timer = some 400 ∧
       ((s [{ settled 0 1 3 .b with suspect := true }]).frozen 0 = true)) ∧
    (let s := timed 1 (some 0) (withSet openedSet (withSheets .moving [compiling 0 1 3 .b] live))
     joinFailure 1 s = some (compiling 0 1 3 .b) ∧ jamCause (.settleTimerExpiry 1) s = some (.compile, none, some 1)) := by
  decide +kernel

theorem witness_RecordEnds :
    (live.sheet? 7 = none ∧ (withSheets .moving [moved] live).sheet? 7 = some moved) ∧
    (let s := withSheets .moving [{ moved with retries := 4 }] (withJob { openJobEntry with stt := 1 } live)
     let c := withSheets .moving [moved] (withLines [(4, lineOf .locked 1 (some 1))]
       (withJob { openJobEntry with state := .cancelling, stt := 1 } live))
     s.ogt.jobs[0].state ≠ .cancelling ∧ c.ogt.jobs[0].state = .cancelling ∧
       ((endSheet 7 .misfed s).ogt.ril.map (fun e => (e.origin, e.retries)) = [(some .misfeed, 4)]) ∧
       ((endSheet 7 .removed s).ogt.ril.map (·.origin) = [some .path]) ∧
       (endSheet 7 .delivered s).ogt.jobs[0].delivered = 1 ∧ (endSheet 7 .compiled s).ogt.jobs[0].set = 1 ∧
       (endSheet 7 .purged c).pgd.lines = [] ∧ (endSheet 7 .purged c).ogt.jobs[0].state = .free) := by decide +kernel

/-! ## Incidents -/

def jamOccurs : Occurrence := ⟨.jam, ⟨.late, some 1, some 7, none⟩, none⟩

theorem witness_OccurrenceIsTaken :
    (idle.pds.mode = .setup ∧ live.pds.mode = .running ∧ live.rcc.get .jam = none ∧ live.rcc.active = none ∧
      live.li.feedPlace = none ∧ live.stk.path = .moving ∧ (raise jamOccurs live).stk.path = .halting ∧
      (raise jamOccurs live).li.eTx = some .halt) ∧
    (let s := { live with rcc := { live.rcc with supply := some (incident .active .hold .trayEmpty) } }
     s.rcc.active = some .supply ∧ jamOccurs.cls.level < IncClass.supply.level ∧
       (raise jamOccurs s).rcc.stack = [.supply] ∧ (raise jamOccurs s).rcc.statusOf .supply = some .preempted) ∧
    (let s := withInterlock .opened none live
     s.rcc.active = some .interlock ∧ ¬jamOccurs.cls.level < IncClass.interlock.level ∧
       (raise jamOccurs s).rcc.statusOf .jam = some .pending) ∧
    (let full := { incident .active .stop .late with count := 255, details := List.replicate 8 ⟨.late, none, none, none⟩ }
     let s := { live with rcc := { live.rcc with jam := some full } }
     (raise jamOccurs s).rcc.jam.map (fun i => (i.count, i.details.length)) = some (255, 8) ∧
       (raise jamOccurs (withJam .stop live)).rcc.jam.map (fun i => (i.count, i.details.length)) = some (2, 2)) := by
  decide +kernel

def misfeedOccurs : Occurrence := ⟨.misfeed, ⟨.misfeed, some 0, some 7, none⟩, some ⟨1, 7, 0, false⟩⟩
def supplyOccurs : Occurrence := ⟨.supply, ⟨.binFull, none, none, some (.bin 0)⟩, none⟩
def withSupply (status : IncStatus) (hold : List Obj) (s : State) : State :=
  { s with rcc := { s.rcc with supply := some { incident status .hold .trayEmpty with hold := hold } } }

theorem witness_OccurrenceIsTaken_misfeed :
    let s := reissued 3 live
    let lacking := withSupply .active [.bin 0] (fullBin 0 s)
    ((raise misfeedOccurs s).rcc.misfeed.map (fun i => (i.phase, i.hold)) = some (.trayHold, [.tray 0]) ∧
      (raise misfeedOccurs live).rcc.misfeed = none) ∧
    ((raise misfeedOccurs lacking).rcc.stack = [.supply] ∧
      (raise misfeedOccurs lacking).rcc.statusOf .misfeed = some .active) ∧
    ((raise misfeedOccurs (withJam .stop s)).rcc.statusOf .misfeed = some .pending ∧
      (withJam .stop s).rcc.active = some .jam) ∧
    (let t := raise misfeedOccurs (withMisfeed (misfed .trayHold .active [.tray 4] true) s)
     t.rcc.misfeed.map (fun i => (i.count, i.hold)) = some (2, [.tray 4, .tray 0])) := by decide +kernel

theorem witness_OccurrenceIsTaken_supply :
    let s := fullBin 0 live
    ((raise supplyOccurs s).rcc.statusOf .supply = some .active ∧ (raise supplyOccurs live).rcc.supply = none ∧
      (raise supplyOccurs (withJam .stop s)).rcc.statusOf .supply = some .pending) ∧
    ((raise supplyOccurs (withSupply .active [.tray 1] s)).rcc.supply.map (fun i => (i.count, i.hold)) =
        some (2, [.tray 1, .bin 0]) ∧
      (raise supplyOccurs (withSupply .active [.tray 1] live)).rcc.supply = none ∧
      (raise supplyOccurs (withSupply .pending [.bin 0] live)).rcc.supply.map (fun i => (i.count, i.hold)) =
        some (2, [.bin 0])) := by decide +kernel

theorem witness_OccurrenceIsTaken_jam :
    (let s := withInterlock .shutWait (some 5) live
     let t := raise ⟨.interlock, ⟨.coverOpen, none, none, some (.cover 1)⟩, none⟩ s
     t.rcc.interlock.map (·.phase) = some .opened ∧ t.rcc.coverTimer = none ∧ t.stk.path = .halting) ∧
    (let halted := withSheets .halted [stranded 1 1 1 none 1] (withJam .clearance live)
     (raise jamOccurs halted).rcc.jam.map (·.phase) = some .clearance ∧
       (raise jamOccurs halted).stk.sheets.map (·.disposition) = [some .purge]) ∧
    (let s := fun st => { live with rcc := { live.rcc with
       interlock := some (incident .active .opened .coverOpen), jam := some (incident st .clearance .late) } }
     (raise jamOccurs (s .preempted)).rcc.jam.map (·.phase) = some .stop ∧
       (raise jamOccurs (s .pending)).rcc.jam.map (·.phase) = some .clearance) ∧
    (let s := { running [] with li := { live.li with eTx := some .halt, runoutPlace := some [], divertQueue := [3] } }
     (enterStop s).li.runoutPlace = none ∧ (enterStop s).li.divertQueue = [] ∧ (enterStop s).stk.path = .halting ∧
       (requestHalt (withSheets .halting [] s)).li.haltPlace = false) := by decide +kernel

/-- An admission whose FEED waits is withdrawn, and its entry asked for again, as the JAM opens. -/
theorem witness_OccurrenceIsTaken_withdrawal :
    let s := withSheets .moving [admitted] { live with
      li := { live.li with feedPlace := some aFeed, eTx := some (.divert 3) }, ogt := { live.ogt with interlock := some 7 } }
    let t := raise jamOccurs s
    t.stk.sheets = [] ∧ t.ogt.orq.map (fun e => (e.seq, e.resend)) = [(1, true)] ∧ t.li.haltPlace = true ∧
    t.stk.path = .halting := by decide +kernel

/-- A JAM that preempts, one that waits PENDING, and one that opens in HALTING or HALTED, each over a FEED that waits. -/
theorem witness_OccurrenceIsTaken_opening :
    let feeding := fun path rcc => withSheets path [admitted] { live with
      rcc := rcc
      li := { live.li with feedPlace := some aFeed, eTx := some (.divert 3), uTx := some (.notice (notice 0)) } }
    let notices := fun s : State => (raise jamOccurs s).li.notices.map (·.notice)
    let opened := fun st pre => Notice.incidentOpened .jam .late jamOccurs.detail st pre
    (let s := feeding .moving { live.rcc with supply := some (incident .active .hold .trayEmpty) }
     (raise jamOccurs s).stk.path = .halting ∧ (notices s).head? = some (opened .active (some .supply)) ∧
       (raise jamOccurs s).stk.sheets = []) ∧
    (let s := feeding .halting { live.rcc with interlock := some (incident .active .opened .coverOpen) }
     (notices s).head? = some (opened .pending none) ∧ (raise jamOccurs s).li.feedPlace = none) ∧
    ((raise jamOccurs (feeding .halting live.rcc)).stk.path = .halting ∧
      (raise jamOccurs (feeding .halted live.rcc)).rcc.jam.map (·.phase) = some .clearance) := by decide +kernel

theorem witness_RecordCloses_next :
    let interlock := fun st => some (incident st .opened .coverOpen)
    let jam := fun st p => some (incident st p .late)
    let s := withSheets .halted [] live
    (let x := { s with rcc := { s.rcc with interlock := interlock .active, jam := jam .pending .stop } }
     (close .interlock x).rcc.jam.map (fun i => (i.status, i.phase)) = some (.active, .clearance) ∧
       (close .interlock x).stk.path = .halted) ∧
    (∀ p ∈ [(Phase.stop, Phase.clearance), (.assess, .clearance), (.clearance, .clearance), (.dispose, .clearance),
        (.runout, .clearance)],
      let x := { s with rcc := { s.rcc with interlock := interlock .active, jam := jam .preempted p.1, stack := [.jam] } }
      (close .interlock x).rcc.jam.map (·.phase) = some p.2 ∧ (close .interlock x).rcc.stack = []) ∧
    (let x := { s with rcc := { s.rcc with interlock := interlock .active, jam := jam .preempted .rebuild, stack := [.jam] } }
     (close .interlock x).rcc.jam = none ∧ (close .interlock x).stk.path = .moving) := by decide +kernel

theorem witness_RecordCloses_lower :
    let jam := some (incident .active .rebuild .late)
    let with' := fun (m p : Option Incident) (stack : List IncClass) (s : State) =>
      { s with rcc := { s.rcc with jam := jam, misfeed := m, supply := p, stack := stack } }
    let s := heldTray 0 (fullBin 0 (reissued 3 (withSheets .halted [] live)))
    let supply := fun st => some { incident st .hold .binFull with hold := [.bin 0] }
    (let t := close .jam (with' (some (misfed .retry .pending [] false)) (supply .preempted) [.supply] s)
     t.rcc.misfeed.map (fun i => (i.status, i.phase)) = some (.active, .trayHold) ∧ t.rcc.stack = [.supply]) ∧
    (let t := close .jam (with' (some (misfed .trayHold .preempted [.tray 0] true)) (supply .pending) [.misfeed] s)
     t.rcc.misfeed.map (·.status) = some .active ∧ t.rcc.statusOf .supply = some .pending ∧ t.rcc.stack = []) ∧
    ((close .jam (with' (some (misfed .retry .preempted [] false)) none [.misfeed] s)).rcc.misfeed.map (·.hold) =
      some [.tray 0]) ∧
    ((close .jam (with' none (supply .preempted) [.supply] s)).rcc.statusOf .supply = some .active ∧
      (close .jam (with' none (supply .pending) [] s)).rcc.statusOf .supply = some .active) := by decide +kernel

theorem witness_RecordCloses :
    (live.rcc.get .jam = none ∧ (withJam .rebuild live).rcc.get .jam = some (incident .active .rebuild .late) ∧
      (∀ d ∈ IncClass.all, d ≠ .jam → (withJam .rebuild live).rcc.get d = none) ∧ live.rcc.stack = []) ∧
    ((close .jam (withSheets .halted [] (withJam .rebuild live))).stk.path = .moving ∧
      (close .jam (withSheets .halted [] (withJam .rebuild live))).rcc.jam = none) ∧
    (let s := withJam .rebuild { live with rcc := { live.rcc with interlock := some (incident .pending .opened .coverOpen) } }
     (close .jam s).rcc.active = some .interlock) := by decide +kernel

theorem test_outbound_bytes :
    (EOut.feed ⟨0x0102, 3, 4, 600, true⟩).frame.body = [1, 2, 3, 4, 2, 88, 1] ∧
    (EOut.runout [(7, .bin 2), (8, .purgeBin)]).frame.body = [2, 0, 7, 2, 0, 8, 6] ∧ EOut.halt.frame.body = [] ∧
    (UOut.reply ⟨0x0102, 0x14, .refusedState, [9]⟩).frame.body = [1, 2, 0x14, 6, 9] ∧
    (UOut.notice ⟨0x0102, .setLost 3 260⟩).frame.body = [15, 1, 2, 3, 1, 4] ∧
    (UOut.notice ⟨1, .removeRequest .suspect 2 [(3, 4)] none⟩).frame.body = [14, 0, 1, 1, 2, 1, 0, 3, 0, 0, 0, 4, 0] ∧
    (UOut.notice ⟨1, .removeRequest .compileTray 2 [] (some ⟨5, 6, 7⟩)⟩).frame.body =
      [14, 0, 1, 3, 2, 0, 1, 5, 0, 6, 0, 0, 0, 7] := by decide +kernel

/-! ## The invariants hold in a state that is not the reset state, and it takes a step -/

def busy : State :=
  { withSheets .moving [moved] (withOrders [entryOf 2 onePage] (withJam .stop (withLines [(4, lineOf .ready 1 (some 2))] live)))
    with pending := [.tpEdge] }

theorem witness_invariants_recovery : RecoveryOk (withJam .stop live).rcc := by
  constructor
  · intro a b ha hb; cases a <;> cases b <;> revert ha hb <;> decide +kernel
  · intro c _; exact ⟨.jam, rfl⟩
  · intro c; cases c <;> decide +kernel
  · exact List.Pairwise.nil
  · intro _ _ c hc; cases hc
  · intro a c _ hc
    exact absurd hc (by cases c <;> decide +kernel)

theorem witness_invariants :
    LinkOk busy.li ∧ DramOk (stored live).cre ∧ DirectoryOk busy.pgd ∧ TableOk busy.stk ∧ DividerOk busy ∧
    RecoveryOk busy.rcc ∧ ∃ t, step busy = .next t :=
  ⟨⟨by decide, by decide, by decide, fun _ => ⟨rfl, rfl, rfl⟩, fun _ => ⟨rfl, rfl, rfl, rfl, rfl, rfl⟩⟩,
    ⟨by decide +kernel, by decide +kernel⟩, ⟨by decide +kernel, by decide +kernel, by decide +kernel⟩,
    ⟨by decide +kernel, by decide +kernel, by decide +kernel, by decide +kernel⟩, by show _ < _; decide +kernel,
    witness_invariants_recovery, ⟨_, rfl⟩⟩

theorem witness_invariants_waiting : WalkOk (flushed 63 true 15).pgd ∧ EdgesOk (edgeWaits 1 .lead 5 live).ckm ∧
    (edgeWaits 1 .lead 5 live).ckm.edges ≠ [] :=
  ⟨witness_FlushWalkStep_walk 63 15 true (by decide) (by decide), by intro g hg; revert g; decide, by decide⟩

/-- Block 0 in the chain of a line, the other 8191 on the free list. -/
theorem witness_invariants_pool :
    PoolOk { State.reset.pgd with
      lines := [(4, { lineOf .ready 1 (some 2) with chain := [0] })], free := List.range' 1 8191 } := by
  refine ⟨by decide +kernel, ?_⟩
  show (List.range' 1 8191 ++ [0]).Perm (List.range' 0 8192)
  exact List.perm_append_comm.trans (by rw [show (8192 : Nat) = 8191 + 1 from rfl, List.range'_succ]; exact List.Perm.refl _)
end Sys2Proof.Tests
end

section
/-!
The page-path link (01_the_page_path_link.md): what the two transmitters serve and leave alone, and what each row of the table
can do to the state, said once for every property that its changes keep (`RowClosed`).
-/
namespace Sys2Proof.Machine

/-! ## The two transmitters (R11, R12) -/

/-- No queue of the link is overfull (R3, R9, R10). -/
def Link.Bounded (l : Link) : Prop :=
  l.fifo.length ≤ Config.fifoPlaces ∧ l.notices.length ≤ Config.noticePlaces ∧ l.upward.length ≤ Config.statusPlaces

/-- Nothing waits beside a free U-port transmitter (R11). -/
def Link.UServed (l : Link) : Prop := l.uTx = none → l.reply = none ∧ l.notices = [] ∧ l.upward = []

/-- Nothing waits beside a free E-port transmitter (R12). -/
def Link.EServed (l : Link) : Prop :=
  l.eTx = none → l.haltPlace = false ∧ l.divertQueue = [] ∧ l.runoutPlace = none ∧ l.bandoutPlace = none ∧
    l.feedPlace = none ∧ l.engcmdPlace = none

theorem linkOk_iff {l : Link} : LinkOk l ↔ l.Bounded ∧ l.UServed ∧ l.EServed :=
  ⟨fun h => ⟨⟨h.fifo, h.notices, h.upward⟩, h.uBusy, h.eBusy⟩,
    fun ⟨⟨hf, hn, hs⟩, hu, he⟩ => ⟨hf, hn, hs, hu, he⟩⟩

theorem LinkOk.bounded {l : Link} (h : LinkOk l) : l.Bounded := (linkOk_iff.1 h).1
theorem LinkOk.uServed {l : Link} (h : LinkOk l) : l.UServed := (linkOk_iff.1 h).2.1
theorem LinkOk.eServed {l : Link} (h : LinkOk l) : l.EServed := (linkOk_iff.1 h).2.2

theorem startU_uServed (l : Link) : l.startU.UServed := by
  unfold Link.startU; split <;> simp_all [Link.UServed]

theorem startU_bounded {l : Link} (h : l.Bounded) : l.startU.Bounded := by
  obtain ⟨hf, hn, hu⟩ := h
  unfold Link.startU; split
  · exact ⟨hf, hn, hu⟩
  · exact ⟨hf, hn, hu⟩
  next hq => exact ⟨hf, Nat.le_of_succ_le (by simpa [hq] using hn), hu⟩
  next hq => exact ⟨hf, hn, Nat.le_of_succ_le (by simpa [hq] using hu)⟩
  · exact ⟨hf, hn, hu⟩

theorem startU_eServed {l : Link} (h : l.EServed) : l.startU.EServed := by
  unfold Link.startU; split <;> exact h

theorem startE_eServed (l : Link) : l.startE.EServed := by
  unfold Link.startE
  repeat' split
  all_goals simp_all [Link.EServed]

theorem startE_bounded {l : Link} (h : l.Bounded) : l.startE.Bounded := by
  unfold Link.startE
  repeat' split
  all_goals exact h

theorem startE_uServed {l : Link} (h : l.UServed) : l.startE.UServed := by
  unfold Link.startE
  repeat' split
  all_goals exact h

/-- All that the U-port needs: a link in order but perhaps for its E-port. -/
def Link.UpperOk (l : Link) : Prop := l.Bounded ∧ l.UServed

theorem LinkOk.upperOk {l : Link} (h : LinkOk l) : l.UpperOk := ⟨h.bounded, h.uServed⟩

theorem startU_upperOk {l : Link} (h : l.Bounded) : l.startU.UpperOk := ⟨startU_bounded h, startU_uServed l⟩

theorem startE_upperOk {l : Link} (h : l.UpperOk) : l.startE.UpperOk := ⟨startE_bounded h.1, startE_uServed h.2⟩

/-- The U-port transmitter, let go on, leaves a link in order whose E-port was served. -/
theorem startU_linkOk {l : Link} (hb : l.Bounded) (he : l.EServed) : LinkOk l.startU :=
  linkOk_iff.2 ⟨startU_bounded hb, startU_uServed l, startU_eServed he⟩

/-- The E-port transmitter, let go on, leaves a link in order whose U-port was in order. -/
theorem startE_linkOk {l : Link} (h : l.UpperOk) : LinkOk l.startE :=
  linkOk_iff.2 ⟨startE_bounded h.1, startE_uServed h.2, startE_eServed l⟩

/-! ## What the operations of the link keep -/

theorem Link.Bounded.post (n : Notice) {l : Link} (h : l.Bounded) : (Link.post n l).Bounded := by
  have ⟨hf, _, hu⟩ := h
  unfold Link.post; dsimp only; split
  next hlt => exact startU_bounded ⟨hf, by simpa using hlt, hu⟩
  next => exact h

theorem Link.UServed.post (n : Notice) {l : Link} (h : l.UServed) : (Link.post n l).UServed := by
  unfold Link.post; dsimp only; split
  · exact startU_uServed _
  · exact h

theorem Link.EServed.post (n : Notice) {l : Link} (h : l.EServed) : (Link.post n l).EServed := by
  unfold Link.post; dsimp only; split
  · exact startU_eServed h
  · exact h

theorem Link.UpperOk.post (n : Notice) {l : Link} (h : l.UpperOk) : (Link.post n l).UpperOk := ⟨h.1.post n, h.2.post n⟩

theorem LinkOk.post (n : Notice) {l : Link} (h : LinkOk l) : LinkOk (Link.post n l) :=
  linkOk_iff.2 ⟨h.bounded.post n, h.uServed.post n, h.eServed.post n⟩

theorem Link.UpperOk.answer (r : Reply) {l : Link} (h : l.UpperOk) : (Link.answer r l).UpperOk :=
  startU_upperOk (l := { l with reply := some r }) h.1

theorem LinkOk.answer (r : Reply) {l : Link} (h : LinkOk l) : LinkOk (Link.answer r l) :=
  startU_linkOk (l := { l with reply := some r }) h.bounded h.eServed

theorem LinkOk.discardCheck (p : Port) (k : Byte) {l : Link} (h : LinkOk l) : LinkOk (l.discardCheck p k) :=
  LinkOk.post _ ⟨h.fifo, h.notices, h.upward, h.uBusy, h.eBusy⟩

theorem LinkOk.discardFormat (p : Port) (k : Byte) {l : Link} (h : LinkOk l) : LinkOk (l.discardFormat p k) :=
  LinkOk.post _ ⟨h.fifo, h.notices, h.upward, h.uBusy, h.eBusy⟩

theorem LinkOk.discardOverrun (p : Port) (k : Byte) {l : Link} (h : LinkOk l) : LinkOk (l.discardOverrun p k) :=
  LinkOk.post _ ⟨h.fifo, h.notices, h.upward, h.uBusy, h.eBusy⟩

theorem Link.UpperOk.passUp (f : Frame) {l : Link} (h : l.UpperOk) : (Link.passUp f l).UpperOk := by
  have ⟨⟨hf, hn, _⟩, _⟩ := h
  unfold Link.passUp; split
  next hlt => exact startU_upperOk ⟨hf, hn, by simpa using hlt⟩
  next => exact Link.UpperOk.post (l := { l with overrunCount := raise16 l.overrunCount }) _ h

theorem LinkOk.passUp (f : Frame) {l : Link} (h : LinkOk l) : LinkOk (Link.passUp f l) := by
  unfold Link.passUp; split
  next hlt => exact startU_linkOk ⟨h.fifo, h.notices, by simpa using hlt⟩ h.eServed
  next => exact h.discardOverrun _ _

theorem LinkOk.enter (f : Frame) {l : Link} (h : LinkOk l) : LinkOk (Link.enter f l) := by
  unfold Link.enter; split
  next hlt => exact ⟨by simpa using hlt, h.notices, h.upward, h.uBusy, h.eBusy⟩
  next => exact h.discardOverrun _ _

theorem Link.UpperOk.take {f : Frame} {rest : List Frame} {l : Link} (hf : l.fifo = f :: rest) (h : l.UpperOk) :
    Link.UpperOk { l with fifo := rest } := by
  obtain ⟨⟨hl, hn, hu⟩, hs⟩ := h
  exact ⟨⟨Nat.le_of_succ_le (by simpa [hf] using hl), hn, hu⟩, hs⟩

theorem LinkOk.take {f : Frame} {rest : List Frame} {l : Link} (hf : l.fifo = f :: rest) (h : LinkOk l) :
    LinkOk { l with fifo := rest } :=
  linkOk_iff.2 ⟨(h.upperOk.take hf).1, h.uServed, h.eServed⟩

/-! ## What a row can do -/

/-- A property kept by the changes the rows are made of: any change of a block but the link, and on the link besides those of
`Closed` the taking of the FIFO's head, a reply, a status passed up, a BANDOUT or FEED placed. -/
structure RowClosed (P : State → Prop) : Prop extends Closed P where
  pds : ∀ f s, P s → P (State.onPds f s)
  ckm : ∀ f s, P s → P (State.onCkm f s)
  cre : ∀ f s, P s → P (State.onCre f s)
  take : ∀ f rest s, s.li.fifo = f :: rest → P s → P (s.onLi fun l => { l with fifo := rest })
  answer : ∀ r s, P s → P (State.onLi (Link.answer r) s)
  passUp : ∀ f s, P s → P (State.onLi (Link.passUp f) s)
  bandout : ∀ b s, P s → P (State.onLi (Link.placeBandout b) s)
  placeFeed : ∀ f s, P s → P (State.onLi (Link.placeFeed f) s)

namespace RowClosed
variable {P : State → Prop} (h : RowClosed P)
include h

/-! ### The capture writer and the replay reader -/

theorem present (b : Band) {s : State} (hs : P s) : P (present b s).1 := by
  unfold Machine.present; split
  · exact h.post _ _ hs
  · have hp := h.place b.key b.index b.final b.data.length hs
    dsimp only; split
    · dsimp only; exact h.cre _ _ hp
    · exact hp

theorem takeBand (b : Band) {s : State} (hs : P s) : P (takeBand b s) := by
  unfold Machine.takeBand; split
  · exact h.cre _ _ hs
  · dsimp only; split
    · exact h.cre _ _ (h.present b hs)
    · exact h.present b hs

theorem band {s : State} (hs : P s) : P (band s) := by
  unfold Machine.band; split
  · exact hs
  next hf =>
    split
    · exact h.takeBand _ (h.take _ _ _ hf hs)
    · exact hs

theorem completeWrite (b : Band) (n : Nat) {s : State} (hs : P s) : P (completeWrite b n s) :=
  h.cre _ _ (h.writeCompleted _ _ (h.cre _ _ hs))

theorem presentWaiting {s : State} (hs : P s) : P (presentWaiting s).1 := by
  unfold Machine.presentWaiting; split
  · exact hs
  · exact h.present _ (h.cre _ _ hs)

theorem nextWrite {s : State} (hs : P s) : P (nextWrite s) := h.cre _ _ (h.presentWaiting hs)

theorem writeTransferEnd {s : State} (hs : P s) : P (writeTransferEnd s) := by
  unfold Machine.writeTransferEnd; split
  · exact h.watched (fun _ => h.nextWrite) (h.watched (fun _ => h.completeWrite _ _) hs)
  · exact hs

theorem tryReplay (c : CallReq) {s : State} (hs : P s) : P (tryReplay c s) := by
  unfold Machine.tryReplay; split
  · exact h.cre _ _ (h.cre _ _ (h.pinLine _ _ hs))
  · exact h.raiseJam _ _ _ _ hs

theorem startPending {s : State} (hs : P s) : P (startPending s) := by
  unfold Machine.startPending; split
  · exact hs
  · exact h.tryReplay _ (h.cre _ _ hs)

theorem startReplay (c : CallReq) {s : State} (hs : P s) : P (startReplay c s) := by
  unfold Machine.startReplay; dsimp only; split
  · exact h.startPending (h.tryReplay c hs)
  · exact h.tryReplay c hs

theorem handCall (c : CallReq) {s : State} (hs : P s) : P (handCall c s) := by
  unfold Machine.handCall; repeat' split
  · exact h.startReplay c hs
  · exact h.raiseJam _ _ _ _ hs
  · exact h.cre _ _ hs

theorem call (t : Tag) (side : Side) {s : State} (hs : P s) : P (call t side s) := by
  unfold Machine.call; repeat' split
  · exact hs
  · exact h.handCall _ hs
  · exact h.raiseJam _ _ _ _ hs

theorem giveBand (c : CallReq) (b : ReadBand) {s : State} (hs : P s) : P (giveBand c b s) := h.cre _ _ (h.bandout _ _ hs)

theorem readEndStreaming (c : CallReq) (chain : List Nat) (n : Nat) {s : State} (hs : P s) :
    P (readEndStreaming c chain n s) := by
  unfold Machine.readEndStreaming; dsimp only; split
  · exact h.cre _ _ (h.giveBand _ _ (h.cre _ _ hs))
  · exact h.cre _ _ (h.cre _ _ hs)

theorem readTransferEnd {s : State} (hs : P s) : P (readTransferEnd s) := by
  unfold Machine.readTransferEnd; repeat' split
  · exact h.readEndStreaming _ _ _ hs
  · exact h.startPending (h.cre _ _ (h.cre _ _ hs))
  · exact h.cre _ _ hs
  · exact hs

theorem bandoutGiven {s : State} (hs : P s) : P (bandoutGiven s) := by
  unfold Machine.bandoutGiven; split
  · dsimp only; split
    · exact h.cre _ _ (h.giveBand _ _ hs)
    · exact h.giveBand _ _ hs
  · exact hs

theorem imagingDoneSheet (t : Tag) (side : Side) {s : State} (hs : P s) : P (imagingDoneSheet t side s) := by
  unfold Machine.imagingDoneSheet; split
  · split
    · exact h.updSheet _ _ hs
    · exact hs
  · exact hs

theorem imagingDone (c : CallReq) {s : State} (hs : P s) : P (imagingDone c s) :=
  h.startPending (h.cre _ _ (h.imagingDoneSheet _ _ (h.watched (fun _ => h.imagingDoneLine _) hs)))

theorem abandonReplay {s : State} (hs : P s) : P (abandonReplay s) := by
  unfold Machine.abandonReplay; split
  · exact h.cre _ _ (h.unpinAbandoned _ hs)
  · exact h.cre _ _ hs
  · exact hs

/-! ### The engine's status -/

theorem setEmpty (t : Tray) (v : Bool) {s : State} (hs : P s) : P (setEmpty t v s) := by
  unfold Machine.setEmpty; dsimp only; split
  · exact h.ogt _ _ hs
  · exact h.supplyReport (h.ogt _ _ hs)

theorem setFull (b : Bin) (v : Bool) {s : State} (hs : P s) : P (setFull b v s) := by
  unfold Machine.setFull; dsimp only; split
  · exact h.onBin _ _ hs
  · exact h.supplyReport (h.onBin _ _ hs)

theorem markStage (b : Bin) (st : Stage) {s : State} (hs : P s) : P (markStage b st s) := by
  unfold Machine.markStage; split
  · exact h.markSuspect _ hs
  · exact hs

theorem binFault (b : Bin) {s : State} (hs : P s) : P (binFault b s) := by
  unfold Machine.binFault; split
  · exact hs
  · exact h.raiseJam _ _ _ _ (h.markStage _ _ (h.markStage _ _ hs))

theorem readBinFull (b : Bin) {s : State} (hs : P s) : P (readBinFull b s) := by
  have hw := h.watched (fun _ => h.setFull b true) hs
  unfold Machine.readBinFull; dsimp only; split
  · exact h.raiseSupply _ _ (h.binFault _ hw)
  · exact hw

theorem readCompileFault (b : Bin) {s : State} (hs : P s) : P (readCompileFault b s) := by
  unfold Machine.readCompileFault; split
  · exact h.raiseJam _ _ _ _ hs
  · exact hs

theorem readStatusFrame (x : Status) {s : State} (hs : P s) : P (readStatusFrame x s) := by
  cases x with
  | trayEmpty t => exact h.setEmpty t _ hs
  | trayFilled t => exact h.setEmpty t _ hs
  | binFull b => exact h.readBinFull b hs
  | binCleared b => exact h.setFull b _ hs
  | setEjected b => exact h.ejectSet b hs
  | compileFault b => exact h.readCompileFault b hs
  | engineFault code => exact h.raiseJam _ _ _ _ hs

theorem engstat (f : Frame) {s : State} (hs : P s) : P (engstat f s) := by
  unfold Machine.engstat; split
  · exact h.passUp _ _ (h.readStatusFrame _ hs)
  · exact h.passUp _ _ hs

theorem engstatUnread (body : List Byte) {s : State} (hs : P s) : P (engstatUnread body s) := by
  unfold Machine.engstatUnread; split
  · exact h.passUp _ _ hs
  · exact hs

/-! ### Sensing and time -/

theorem wallTick (lines : CoverLines) {s : State} (hs : P s) : P (wallTick lines s) := h.rcc _ _ (h.dlu _ _ (h.ckm _ _ hs))

theorem countAdvance {s : State} (hs : P s) : P (countAdvance s) := by
  unfold Machine.countAdvance; split
  · exact hs
  · exact h.stk _ _ (h.ckm _ _ hs)

theorem completeHalt {s : State} (hs : P s) : P (completeHalt s) := by
  have hw := h.watched (h.stk fun k => { k with path := .halted, sheets := k.sheets.map Sheet.strand }) hs
  unfold Machine.completeHalt; dsimp only; split
  · exact h.haltedReport (h.raiseJam _ _ _ _ hw)
  · exact h.haltedReport hw

theorem pathStill {s : State} (hs : P s) : P (pathStill s) := by
  unfold Machine.pathStill; dsimp only; repeat' split
  · exact h.completeHalt (h.ckm _ _ hs)
  · exact h.ckm _ _ hs
  · exact hs

theorem strandOpen {s : State} (hs : P s) : P (strandOpen s) := by
  unfold Machine.strandOpen; split
  · exact h.raiseJam _ _ _ _ hs
  · exact hs

theorem coverOpen (c : Cover) (first : Bool) {s : State} (hs : P s) : P (coverOpen c first s) := by
  have hp : P (popCoverEvent c s) := h.ckm _ _ hs
  unfold Machine.coverOpen; dsimp only; repeat' split
  · exact h.raiseInterlock _ (h.strandOpen hp)
  · exact h.strandOpen (h.raiseInterlock _ hp)
  · exact hs

theorem takeShut {s : State} (hs : P s) : P (takeShut s) := by
  unfold Machine.takeShut; split
  · exact h.rcc _ _ (h.setPhase _ _ hs)
  · exact hs

theorem coverShut (c : Cover) {s : State} (hs : P s) : P (coverShut c s) := by
  unfold Machine.coverShut; split
  · exact h.takeShut (h.ckm _ _ hs)
  · exact hs

theorem coverSettleExpiry {s : State} (hs : P s) : P (coverSettleExpiry s) := by
  unfold Machine.coverSettleExpiry; split
  · exact h.close _ _ hs
  · exact hs

/-! ### Tracking -/

theorem popEdge (c : Checkpoint) (v : Bool) {s : State} (hs : P s) : P (popEdge c v s) := h.stk _ _ (h.ckm _ _ hs)

theorem matchSheet (faults : Bool) (c : Checkpoint) (n : Count) (r : Sheet) {s : State} (hs : P s) :
    P (matchSheet faults c n r s) := by
  unfold Machine.matchSheet; dsimp only; repeat' split
  · exact h.raiseAt _ _ _ hs
  · exact hs
  · exact h.clearInterlock _ (h.updSheet _ _ hs)
  · exact h.updSheet _ _ hs

theorem matchLead (faults : Bool) (c : Checkpoint) (n : Count) {s : State} (hs : P s) : P (matchLead faults c n s) := by
  unfold Machine.matchLead; repeat' split
  · exact h.raiseAt _ _ _ hs
  · exact hs
  · exact h.raiseAt _ _ _ hs
  · exact hs
  · exact h.matchSheet _ _ _ _ hs
  · exact h.raiseAt _ _ _ hs
  · exact hs

theorem leadEdge (c : Checkpoint) {s : State} (hs : P s) : P (leadEdge c s) := by
  unfold Machine.leadEdge; dsimp only; repeat' split
  · exact h.popEdge _ _ hs
  · exact h.matchLead _ _ _ (h.popEdge _ _ hs)
  · exact hs
  · exact hs

theorem failJoin (b : Bin) (x : Sheet) {s : State} (hs : P s) : P (failJoin b x s) :=
  h.raiseJam _ _ _ _ (h.markSuspect _ hs)

theorem handOver (c : Checkpoint) (r : Sheet) {s : State} (hs : P s) : P (handOver c r s) := by
  unfold Machine.handOver; dsimp only; split
  all_goals split
  · exact h.advanceEjection _ _ (h.failJoin _ _ hs)
  · exact h.raiseJam _ _ _ _ (h.failJoin _ _ hs)
  · exact h.advanceEjection _ _ hs
  · exact h.raiseJam _ _ _ _ hs

theorem removeAtExit (r : Sheet) {s : State} (hs : P s) : P (removeAtExit r s) := h.post _ _ (h.endSheet _ _ hs)

theorem clearOccupied (t : Tag) {s : State} (hs : P s) : P (clearOccupied t s) := h.updSheet _ _ hs

theorem exitSheet (c : Checkpoint) (r : Sheet) {s : State} (hs : P s) : P (exitSheet c r s) := by
  have hc := h.clearOccupied r.tag hs
  unfold Machine.exitSheet; dsimp only; repeat' split
  · exact h.raiseAt _ _ _ hc
  · exact h.checkRunoutComplete (h.removeAtExit _ hc)
  · exact h.checkRunoutComplete (h.handOver _ _ hc)

theorem purgeSheet (r : Sheet) {s : State} (hs : P s) : P (purgeSheet r s) :=
  h.checkRunoutComplete (h.endSheet _ _ (h.clearOccupied _ hs))

theorem releaseEntry (c : Checkpoint) (n : Count) (r : Sheet) {s : State} (hs : P s) : P (releaseEntry c n r s) := by
  have hu := h.updSheet r.tag (Sheet.trail c n) hs
  unfold Machine.releaseEntry; dsimp only; repeat' split
  · exact h.purgeSheet _ hu
  · exact h.exitSheet _ _ hu
  · exact hu
  · exact hu

theorem takeTrail (faults : Bool) (c : Checkpoint) (n : Count) {s : State} (hs : P s) : P (takeTrail faults c n s) := by
  unfold Machine.takeTrail; repeat' split
  · exact h.releaseEntry _ _ _ hs
  · exact h.raiseAt _ _ _ hs
  · exact hs

theorem trailEdge (c : Checkpoint) {s : State} (hs : P s) : P (trailEdge c s) := by
  unfold Machine.trailEdge; dsimp only; repeat' split
  · exact h.popEdge _ _ hs
  · exact h.takeTrail _ _ _ (h.popEdge _ _ hs)
  · exact hs
  · exact hs

theorem popDue {s : State} (hs : P s) : P (popDue s) := h.stk _ _ hs

theorem misfeed (r : Sheet) {s : State} (hs : P s) : P (misfeed r s) := h.raise _ (h.endSheet _ _ hs)

theorem leadExpired (t : Tag) (i : Nat) {s : State} (hs : P s) : P (leadExpired t i s) := by
  unfold Machine.leadExpired; repeat' split
  · exact h.misfeed _ hs
  · exact h.raiseAt _ _ _ hs
  · exact hs

theorem leadWindowExpiry {s : State} (hs : P s) : P (leadWindowExpiry s) := by
  unfold Machine.leadWindowExpiry; split
  · exact h.leadExpired _ _ (h.popDue hs)
  · exact hs

theorem trailExpired (t : Tag) (e : Occupied) {s : State} (hs : P s) : P (trailExpired t e s) := by
  unfold Machine.trailExpired; split
  · exact h.raiseAt _ _ _ hs
  · exact hs

theorem trailDeadlineExpiry {s : State} (hs : P s) : P (trailDeadlineExpiry s) := by
  unfold Machine.trailDeadlineExpiry; split
  · exact h.trailExpired _ _ (h.popDue hs)
  · exact hs

theorem runoutExpired (t : Tag) (n : Count) {s : State} (hs : P s) : P (runoutExpired t n s) := by
  unfold Machine.runoutExpired; split
  · exact h.checkRunoutComplete (h.absenceReport _ _ _ (h.endSheet _ _ hs))
  · exact hs

theorem runoutDeadlineExpiry {s : State} (hs : P s) : P (runoutDeadlineExpiry s) := by
  unfold Machine.runoutDeadlineExpiry; split
  · exact h.runoutExpired _ _ (h.popDue hs)
  · exact hs

theorem settleTimerExpiry (b : Bin) {s : State} (hs : P s) : P (settleTimerExpiry b s) := by
  unfold Machine.settleTimerExpiry; repeat' split
  · exact h.failJoin _ _ hs
  · exact h.advanceExpiry _ hs
  · exact hs

/-! ### Orders and admission -/

theorem acceptOrder (o : OrderBody) {s : State} (hs : P s) : P (acceptOrder o s) := by
  have hc := kept_foldl (fun _ k => h.claimLine s.ogt.seqCounter k) (o.snapshot s).keys
    (h.onJob o.job (fun b => { b with orq := b.orq + 1 })
      (h.ogt (fun g => { g with
        seqCounter := s.ogt.seqCounter + 1
        orq := g.orq ++ [⟨s.ogt.seqCounter, o.job, o.snapshot s, false, none, 0⟩] }) s hs))
  unfold Machine.acceptOrder; dsimp only; split
  · exact h.ogt _ _ hc
  · exact hc

theorem judgeOrder (o : OrderBody) {s : State} (hs : P s) : P (judgeOrder o s) := by
  unfold Machine.judgeOrder; split
  · exact h.post _ _ hs
  · exact h.acceptOrder _ hs

theorem order {s : State} (hs : P s) : P (order s) := by
  unfold Machine.order; split
  · exact hs
  next hf =>
    split
    · exact h.judgeOrder _ (h.take _ _ _ hf hs)
    · exact hs

theorem leaveList (e : Entry) (reissued : Bool) {s : State} (hs : P s) : P (leaveList e reissued s) := by
  unfold Machine.leaveList; split
  · exact h.onJob _ _ (h.ogt _ _ hs)
  · exact h.onJob _ _ (h.ogt _ _ hs)

theorem openAdmission (e : Entry) (slot : Fin 24) {s : State} (hs : P s) : P (openAdmission e slot s) :=
  h.leaveList _ _ (h.ogt _ _ (h.placeFeed _ _ (h.stk _ _ hs)))

theorem admitGateHead {s : State} (hs : P s) : P (admitGateHead s) := by
  unfold Machine.admitGateHead; repeat' split
  · exact h.openAdmission _ _ hs
  · exact hs
  · exact hs

theorem flushWalkStep {s : State} (hs : P s) : P (flushWalkStep s) := by
  unfold Machine.flushWalkStep; split
  · exact h.walkStep _ hs
  · exact hs

/-! ### Requests -/

theorem reply (q : Request) (c : ReplyCode) (b : List Byte) {s : State} (hs : P s) : P (reply q c b s) := h.answer _ _ hs

/-- An owner's work on a request that keeps the property. -/
abbrev Owner (P : State → Prop) (act : Request → State → State) : Prop := ∀ q s, P s → P (act q s)

omit h in
theorem requestAtHead_fifo {s : State} {q : Request} {rest : List Frame} (hq : requestAtHead s = some (q, rest)) :
    ∃ f, s.li.fifo = f :: rest := by
  unfold requestAtHead at hq
  split at hq
  · cases hq
  next f _ hf =>
    split at hq
    · cases hq; exact ⟨f, hf⟩
    · cases hq

theorem takeRequest (wanted : Request → Bool) {act : Request → State → State} (ha : Owner P act) {s : State} (hs : P s) :
    P (takeRequest wanted act s) := by
  unfold Machine.takeRequest; split
  · exact hs
  next hq =>
    obtain ⟨f, hf⟩ := requestAtHead_fifo hq
    have ht := h.take _ _ _ hf hs
    dsimp only; repeat' split
    · exact h.reply _ _ _ ht
    · exact ha _ _ ht
    · exact hs

theorem inSetup {act : Request → State → State} (ha : Owner P act) : Owner P (inSetup act) := by
  intro q s hs
  unfold Machine.inSetup; split
  · exact h.reply _ _ _ hs
  · exact ha _ _ hs

theorem loadRoute : Owner P loadRoute := by
  intro q s hs
  unfold Machine.loadRoute; split
  · exact h.reply _ _ _ hs
  · exact h.reply _ _ _ (h.pds _ _ hs)

theorem unloadRoute : Owner P unloadRoute := by
  intro q s hs
  unfold Machine.unloadRoute; repeat' split
  · exact h.reply _ _ _ hs
  · exact h.reply _ _ _ hs
  · exact h.reply _ _ _ (h.pds _ _ hs)

theorem loadBin : Owner P loadBin := by
  intro q s hs
  unfold Machine.loadBin; repeat' split
  · exact h.reply _ _ _ hs
  · exact h.reply _ _ _ hs
  · exact h.reply _ _ _ (h.pds _ _ hs)

theorem loadTray : Owner P loadTray := by
  intro q s hs
  unfold Machine.loadTray; split
  · exact h.reply _ _ _ (h.pds _ _ hs)
  · exact h.reply _ _ _ hs

theorem applyTiming (t : Timing) {s : State} (hs : P s) : P (applyTiming t s) := by
  unfold Machine.applyTiming; exact h.ckm _ _ (h.pds _ _ hs)

theorem setTiming : Owner P setTiming := by
  intro q s hs
  unfold Machine.setTiming; dsimp only; repeat' split
  · exact h.reply _ _ _ hs
  · exact h.reply _ _ _ hs
  · exact h.reply _ _ _ (h.applyTiming _ hs)

theorem start : Owner P start := by
  intro q s hs
  have hr := h.reply q .done []
    (h.stk (fun k => { k with path := .moving }) _ (h.pds (fun p => { p with mode := .running }) s hs))
  unfold Machine.start Machine.carryOutStart; dsimp only; repeat' split
  · exact h.reply _ _ _ hs
  · exact h.raiseInterlock _ hr
  · exact hr
  · exact h.reply _ _ _ hs

theorem stop : Owner P stop := by
  intro q s hs
  unfold Machine.stop; repeat' split
  · exact h.reply _ _ _ hs
  · exact h.reply _ _ _ (h.halt _ (h.stk _ _ (h.pds _ _ hs)))
  · exact h.reply _ _ _ hs

theorem readBin : Owner P readBin := by
  intro q s hs
  unfold Machine.readBin; split <;> exact h.reply _ _ _ hs

theorem setRetentionMode : Owner P setRetentionMode := by
  intro q s hs
  unfold Machine.setRetentionMode; repeat' split
  · exact h.reply _ _ _ hs
  · exact h.reply _ _ _ (h.pgd _ _ hs)
  · exact h.reply _ _ _ hs

theorem inquirePage : Owner P inquirePage := by
  intro q s hs
  unfold Machine.inquirePage; split <;> exact h.reply _ _ _ hs

theorem dropLine (q : Request) (i : Nat) (l : Line) {s : State} (hs : P s) : P (dropLine q i l s) := by
  have hg := h.pgd (Directory.dropWay i) s hs
  unfold Machine.dropLine; dsimp only; split
  · exact h.reply _ _ _ hs
  · split
    · exact h.reply _ _ _ hs
    · exact h.reply _ _ _ hs
    · split
      · exact h.reply _ _ _ hs
      · exact h.reply _ _ _ hg
    · exact h.reply _ _ _ hg
    · split
      · exact h.reply _ _ _ (h.loseProtection _ hg)
      · exact h.reply _ _ _ hg

theorem dropPage : Owner P dropPage := by
  intro q s hs
  unfold Machine.dropPage; repeat' split
  · exact h.reply _ _ _ hs
  · exact h.reply _ _ _ hs
  · exact h.dropLine _ _ _ hs

theorem flush : Owner P flush := by
  intro q s hs
  unfold Machine.flush; split
  · exact h.reply _ _ _ hs
  · exact h.reply _ _ _ (h.post _ _ (h.pgd _ _ hs))

theorem openJob : Owner P openJob := by
  intro q s hs
  unfold Machine.openJob; dsimp only; repeat' split
  · exact h.reply _ _ _ hs
  · exact h.reply _ _ _ hs
  · exact h.reply _ _ _ hs
  · exact h.reply _ _ _ (h.onJob _ _ hs)
  · exact h.reply _ _ _ hs

theorem closeJob : Owner P closeJob := by
  intro q s hs
  unfold Machine.closeJob; repeat' split
  · exact h.reply _ _ _ hs
  · exact h.checkDone _ (h.reply _ _ _ (h.onJob _ _ hs))
  · exact h.reply _ _ _ hs

theorem invalidateEntries (l : List Entry) {s : State} (hs : P s) : P (invalidateEntries l s) :=
  kept_foldl (fun _ e => h.invalidateOwner e.seq) _ hs

theorem cancelSet (j : JobSlot) {s : State} (hs : P s) : P (cancelSet j s) := by
  unfold Machine.cancelSet; dsimp only
  repeat' split
  · exact h.ogt _ _ (h.loseProtection _ hs)
  · exact h.ogt _ _ hs
  · exact h.ogt _ _ hs
  · exact h.loseProtection _ hs
  · exact hs
  · exact hs
  · exact h.loseProtection _ hs
  · exact hs
  · exact hs

theorem cancel (q : Request) (j : JobSlot) {s : State} (hs : P s) : P (cancel q j s) :=
  h.checkDone _ (h.reply _ _ _ (h.cancelSet _ (h.onJob _ _ (h.invalidateEntries _ (h.ogt _ _ (h.onJob _ _
    (h.invalidateEntries _ (h.ogt _ _ (h.onJob _ _ hs)))))))))

theorem cancelJob : Owner P cancelJob := by
  intro q s hs
  unfold Machine.cancelJob; repeat' split
  · exact h.reply _ _ _ hs
  · exact h.reply _ _ _ hs
  · exact h.cancel _ _ hs

theorem clearHeld (t : Tray) {s : State} (hs : P s) : P (clearHeld t s) := by
  unfold Machine.clearHeld; dsimp only; repeat' split
  · exact h.ogt _ _ (h.ogt _ _ hs)
  · exact h.ogt _ _ hs
  · exact h.ogt _ _ hs

theorem trayReady : Owner P trayReady := by
  intro q s hs
  unfold Machine.trayReady; repeat' split
  · exact h.reply _ _ _ hs
  · exact h.reply _ _ _ (h.trayReadyReport (h.clearHeld _ hs))
  · exact h.reply _ _ _ hs

theorem confirmClear : Owner P confirmClear := by
  intro q s hs
  unfold Machine.confirmClear; repeat' split
  · exact h.enterDispose (h.reply _ _ _ hs)
  · exact h.post _ _ (h.reply _ _ _ hs)
  · exact h.reply _ _ _ hs

end RowClosed

end Sys2Proof.Machine
end

section
namespace Sys2Proof.Machine

/-! ## The link in order: kept by every row -/

/-- The link is in order. -/
abbrev LinkInOrder (s : State) : Prop := LinkOk s.li

/-- The link is in order but perhaps for its E-port, as between the end of a transmission and the next frame. -/
abbrev UpperInOrder (s : State) : Prop := s.li.UpperOk

theorem linkInOrder_rows : RowClosed LinkInOrder where
  stk _ _ h := h
  dlu _ _ h := h
  pgd _ _ h := h
  ogt _ _ h := h
  rcc _ _ h := h
  pds _ _ h := h
  ckm _ _ h := h
  cre _ _ h := h
  post n _ h := LinkOk.post n h
  halt s h := startE_linkOk (l := { s.li with haltPlace := true }) h.upperOk
  divert t s h := startE_linkOk (l := { s.li with divertQueue := s.li.divertQueue ++ [t] }) h.upperOk
  runout r s h := startE_linkOk (l := { s.li with runoutPlace := some r }) h.upperOk
  bandout b s h := startE_linkOk (l := { s.li with bandoutPlace := some b }) h.upperOk
  placeFeed f s h := startE_linkOk (l := { s.li with feedPlace := some f }) h.upperOk
  frames _ h := ⟨h.fifo, h.notices, h.upward, h.uBusy, fun he =>
    have ⟨hh, _, _, hb, hf, hc⟩ := h.eBusy he; ⟨hh, rfl, rfl, hb, hf, hc⟩⟩
  feed _ h := ⟨h.fifo, h.notices, h.upward, h.uBusy, fun he =>
    have ⟨hh, hd, hr, hb, _, hc⟩ := h.eBusy he; ⟨hh, hd, hr, hb, rfl, hc⟩⟩
  take _ _ _ hf h := LinkOk.take hf h
  answer r _ h := LinkOk.answer r h
  passUp f _ h := LinkOk.passUp f h

theorem upperInOrder_rows : RowClosed UpperInOrder where
  stk _ _ h := h
  dlu _ _ h := h
  pgd _ _ h := h
  ogt _ _ h := h
  rcc _ _ h := h
  pds _ _ h := h
  ckm _ _ h := h
  cre _ _ h := h
  post n _ h := Link.UpperOk.post n h
  halt s h := startE_upperOk (l := { s.li with haltPlace := true }) h
  divert t s h := startE_upperOk (l := { s.li with divertQueue := s.li.divertQueue ++ [t] }) h
  runout r s h := startE_upperOk (l := { s.li with runoutPlace := some r }) h
  bandout b s h := startE_upperOk (l := { s.li with bandoutPlace := some b }) h
  placeFeed f s h := startE_upperOk (l := { s.li with feedPlace := some f }) h
  frames _ h := h
  feed _ h := h
  take _ _ _ hf h := Link.UpperOk.take hf h
  answer r _ h := Link.UpperOk.answer r h
  passUp f _ h := Link.UpperOk.passUp f h

/-! ### The rows that act on the link itself -/

theorem receive_linkInOrder (p : Port) (bytes : List Byte) {s : State} (h : LinkInOrder s) :
    LinkInOrder (receive p bytes s) := by
  unfold receive goodFrame
  repeat' split
  · exact LinkOk.discardCheck _ _ h
  · exact LinkOk.discardFormat _ _ h
  · exact LinkOk.enter _ h
  · exact linkInOrder_rows.call _ _ h
  · exact linkInOrder_rows.engstat _ h

theorem engcmd_linkInOrder {s : State} (h : LinkInOrder s) : LinkInOrder (engcmd s) := by
  unfold engcmd; split
  · exact h
  next f rest hf =>
    split
    · exact startE_linkOk (l := { s.li with fifo := rest, engcmdPlace := some f }) (Link.UpperOk.take hf h.upperOk)
    · exact h

theorem uFrameSent_linkInOrder {s : State} (h : LinkInOrder s) : LinkInOrder (uFrameSent s) := by
  unfold uFrameSent; split
  · exact startU_linkOk (l := { s.li with uTx := none }) h.bounded h.eServed
  · exact h

theorem eFrameSent_linkInOrder {s : State} (h : LinkInOrder s) : LinkInOrder (eFrameSent s) := by
  have he : LinkOk (Link.startE { s.li with eTx := none }) := startE_linkOk (l := { s.li with eTx := none }) h.upperOk
  unfold eFrameSent; split
  · exact he
  · exact he
  · exact he
  · exact he
  · exact h
  · exact h
  · exact h

theorem haltSent_linkInOrder {s : State} (h : LinkInOrder s) : LinkInOrder (haltSent s) := by
  unfold haltSent; split
  · exact startE_linkOk (upperInOrder_rows.abandonReplay (upperInOrder_rows.ckm _
      (s.onLi fun l => { l with eTx := none, bandoutPlace := none }) h.upperOk))
  · exact h

theorem bandoutSent_linkInOrder {s : State} (h : LinkInOrder s) : LinkInOrder (bandoutSent s) := by
  unfold bandoutSent; split
  next b _ =>
    have hu : UpperInOrder (s.onLi fun l => { l with eTx := none }) := h.upperOk
    dsimp only; split
    · exact startE_linkOk (upperInOrder_rows.imagingDone _ hu)
    · exact startE_linkOk hu
  · exact h

theorem readStatus_linkInOrder : RowClosed.Owner LinkInOrder readStatus := by
  intro q s h
  obtain ⟨hf, hn, hs, hu, he⟩ := linkInOrder_rows.reply q .done (statusReply s) h
  unfold readStatus; dsimp only [onLi_li]; split
  all_goals exact ⟨hf, hn, hs, hu, he⟩

/-- A soft reset leaves an empty link, but for the frames being sent (R15). -/
theorem softReset_upperInOrder (s : State) : UpperInOrder (softReset s) :=
  ⟨⟨Nat.zero_le _, Nat.zero_le _, Nat.zero_le _⟩, fun _ => ⟨rfl, rfl, rfl⟩⟩

theorem resetPart_linkInOrder : RowClosed.Owner LinkInOrder resetPart := fun q s _ =>
  linkInOrder_rows.reply q .done []
    (s := (softReset s).onLi Link.placeHalt)
    (startE_linkOk (l := { (softReset s).li with haltPlace := true }) (softReset_upperInOrder s))

/-! ### Every row -/

/-- An event that keeps the link in order keeps it so through its watch, and does nothing under PORST. -/
theorem event_linkInOrder {f : State → State} (hf : ∀ s, LinkInOrder s → LinkInOrder (f s)) {s t : State}
    (h : s.porst = false → LinkInOrder s) (ht : event f s = .next t) : t.porst = false → LinkInOrder t := by
  unfold event at ht
  split at ht
  · cases ht; exact h
  next hp => cases ht; exact fun _ => linkInOrder_rows.watchGate _ (hf _ (h (by simpa using hp)))

theorem onRequest_linkInOrder {code : Nat} {act : Request → State → State} (ha : RowClosed.Owner LinkInOrder act)
    {s t : State} (h : s.porst = false → LinkInOrder s) (ht : onRequest code act s = .next t) :
    t.porst = false → LinkInOrder t :=
  event_linkInOrder (fun _ => linkInOrder_rows.takeRequest _ ha) h ht

/-- While PORST is not asserted the link is in order: every command keeps this. -/
theorem exec_linkInOrder (c : Instr) {s t : State} (h : s.porst = false → LinkInOrder s) (ht : exec c s = .next t) :
    t.porst = false → LinkInOrder t := by
  have hr := linkInOrder_rows
  cases c with
  | porstAssert =>
    cases ht; unfold assertPorst; split
    · exact h
    · exact fun hp => absurd hp (by simp)
  | porstRelease =>
    cases ht; unfold releasePorst; split
    · exact fun _ => by constructor <;> simp [State.reset, Link.reset]
    · exact h
  | writeTransferEnd =>
    change (if s.porst then _ else _) = _ at ht
    split at ht
    · cases ht; exact h
    next hp => cases ht; exact fun _ => hr.writeTransferEnd (h (by simpa using hp))
  | frameReceived p bytes => exact event_linkInOrder (fun _ => receive_linkInOrder p bytes) h ht
  | order => exact event_linkInOrder (fun _ => hr.order) h ht
  | band => exact event_linkInOrder (fun _ => hr.band) h ht
  | engcmd => exact event_linkInOrder (fun _ => engcmd_linkInOrder) h ht
  | mgmtUnknownRequest => exact event_linkInOrder (fun _ => hr.takeRequest _ fun q _ => hr.reply q .refusedUnknown []) h ht
  | readStatus => exact onRequest_linkInOrder readStatus_linkInOrder h ht
  | resetPart => exact onRequest_linkInOrder resetPart_linkInOrder h ht
  | loadRoute => exact event_linkInOrder (fun _ => hr.takeRequest _ (hr.inSetup hr.loadRoute)) h ht
  | unloadRoute => exact event_linkInOrder (fun _ => hr.takeRequest _ (hr.inSetup hr.unloadRoute)) h ht
  | loadBin => exact onRequest_linkInOrder (hr.inSetup hr.loadBin) h ht
  | loadTray => exact onRequest_linkInOrder (hr.inSetup hr.loadTray) h ht
  | setTiming => exact onRequest_linkInOrder (hr.inSetup hr.setTiming) h ht
  | start => exact onRequest_linkInOrder (hr.inSetup hr.start) h ht
  | stop => exact onRequest_linkInOrder hr.stop h ht
  | readSheets => exact onRequest_linkInOrder (fun _ _ => hr.reply _ _ _) h ht
  | readBin => exact onRequest_linkInOrder hr.readBin h ht
  | setRetentionMode => exact onRequest_linkInOrder hr.setRetentionMode h ht
  | inquirePage => exact onRequest_linkInOrder hr.inquirePage h ht
  | dropPage => exact onRequest_linkInOrder hr.dropPage h ht
  | flush => exact onRequest_linkInOrder hr.flush h ht
  | flushWalkStep => exact event_linkInOrder (fun _ => hr.flushWalkStep) h ht
  | openJob => exact onRequest_linkInOrder hr.openJob h ht
  | closeJob => exact onRequest_linkInOrder hr.closeJob h ht
  | cancelJob => exact onRequest_linkInOrder hr.cancelJob h ht
  | trayReady => exact onRequest_linkInOrder hr.trayReady h ht
  | readQueues => exact onRequest_linkInOrder (fun _ _ => hr.reply _ _ _) h ht
  | readIncidents => exact onRequest_linkInOrder (fun _ _ => hr.reply _ _ _) h ht
  | confirmClear => exact onRequest_linkInOrder hr.confirmClear h ht
  | call tag side => exact event_linkInOrder (fun _ => hr.call tag side) h ht
  | trayEmpty t rest => exact event_linkInOrder (fun _ hs => hr.passUp _ _ (hr.setEmpty t true hs)) h ht
  | trayFilled t rest => exact event_linkInOrder (fun _ hs => hr.passUp _ _ (hr.setEmpty t false hs)) h ht
  | binFull b rest => exact event_linkInOrder (fun _ hs => hr.passUp _ _ (hr.readBinFull b hs)) h ht
  | binCleared b rest => exact event_linkInOrder (fun _ hs => hr.passUp _ _ (hr.setFull b false hs)) h ht
  | setEjected b rest => exact event_linkInOrder (fun _ hs => hr.passUp _ _ (hr.ejectSet b hs)) h ht
  | engineFault code => exact event_linkInOrder (fun _ hs => hr.passUp _ _ (hr.raiseJam _ _ _ _ hs)) h ht
  | compileFault b rest => exact event_linkInOrder (fun _ hs => hr.passUp _ _ (hr.readCompileFault b hs)) h ht
  | engstatUnread body => exact event_linkInOrder (fun _ => hr.engstatUnread body) h ht
  | uFrameSent => exact event_linkInOrder (fun _ => uFrameSent_linkInOrder) h ht
  | eFrameSent => exact event_linkInOrder (fun _ => eFrameSent_linkInOrder) h ht
  | haltSent => exact event_linkInOrder (fun _ => haltSent_linkInOrder) h ht
  | bandoutSent => exact event_linkInOrder (fun _ => bandoutSent_linkInOrder) h ht
  | bandoutGiven => exact event_linkInOrder (fun _ => hr.bandoutGiven) h ht
  | readTransferEnd => exact event_linkInOrder (fun _ => hr.readTransferEnd) h ht
  | leadEdge ck => exact event_linkInOrder (fun _ => hr.leadEdge ck) h ht
  | trailEdge ck => exact event_linkInOrder (fun _ => hr.trailEdge ck) h ht
  | coverOpen c first => exact event_linkInOrder (fun _ => hr.coverOpen c first) h ht
  | coverShut c => exact event_linkInOrder (fun _ => hr.coverShut c) h ht
  | tpEdge => exact event_linkInOrder (fun _ => hr.ckm _ _) h ht
  | countAdvance => exact event_linkInOrder (fun _ => hr.countAdvance) h ht
  | leadWindowExpiry => exact event_linkInOrder (fun _ => hr.leadWindowExpiry) h ht
  | trailDeadlineExpiry => exact event_linkInOrder (fun _ => hr.trailDeadlineExpiry) h ht
  | runoutDeadlineExpiry => exact event_linkInOrder (fun _ => hr.runoutDeadlineExpiry) h ht
  | pathStill => exact event_linkInOrder (fun _ => hr.pathStill) h ht
  | settleTimerExpiry b => exact event_linkInOrder (fun _ => hr.settleTimerExpiry b) h ht
  | coverSettleExpiry => exact event_linkInOrder (fun _ => hr.coverSettleExpiry) h ht
  | admitGateHead => exact event_linkInOrder (fun _ => hr.admitGateHead) h ht
  | wallTick lines => exact event_linkInOrder (fun _ => hr.wallTick lines) h ht
  | checkpointSampleInstant lines => exact event_linkInOrder (fun _ => hr.ckm _ _) h ht

end Sys2Proof.Machine

namespace Sys2Proof.Proofs
open Sys2Proof.Machine

/-- Settles O56: every row keeps the link in order, row by row; the step runs one row on the rest of the queue. -/
theorem stepKeepsLink : Obligations.StepKeepsLink := by
  unfold Obligations.StepKeepsLink
  intro s t h ht
  unfold step at ht
  split at ht
  · cases ht; exact h
  next rest _ => exact exec_linkInOrder _ (s := { s with pending := rest }) h ht

end Sys2Proof.Proofs
end

section
namespace Sys2Proof.Machine

/-! ## The U-port transmitter, case by case (R11) -/

section
variable {l : Link}

theorem startU_busy (h : l.uTx.isSome) : l.startU = l := by
  obtain ⟨x, hx⟩ := Option.isSome_iff_exists.1 h
  simp [Link.startU, hx]

theorem startU_reply {r : Reply} (hu : l.uTx = none) (hr : l.reply = some r) :
    l.startU = { l with reply := none, uTx := some (.reply r) } := by
  simp [Link.startU, hu, hr]

theorem startU_notice {n : Posted} {ns : List Posted} (hu : l.uTx = none) (hr : l.reply = none) (hn : l.notices = n :: ns) :
    l.startU = { l with notices := ns, uTx := some (.notice n) } := by
  simp [Link.startU, hu, hr, hn]

theorem startU_status {f : Frame} {fs : List Frame} (hu : l.uTx = none) (hr : l.reply = none) (hn : l.notices = [])
    (hs : l.upward = f :: fs) : l.startU = { l with upward := fs, uTx := some (.engstat f) } := by
  simp [Link.startU, hu, hr, hn, hs]

theorem startU_idle (hu : l.uTx = none) (hr : l.reply = none) (hn : l.notices = []) (hs : l.upward = []) :
    l.startU = l := by
  simp [Link.startU, hu, hr, hn, hs]

theorem linkPost_waits (n : Notice) (hlt : l.notices.length < Config.noticePlaces) (hu : l.uTx.isSome) :
    Link.post n l =
      { l with noticeCounter := l.noticeCounter + 1, notices := l.notices ++ [⟨l.noticeCounter, n⟩] } :=
  (if_pos hlt).trans (startU_busy hu)

theorem linkPost_dropped (n : Notice) (hle : Config.noticePlaces ≤ l.notices.length) :
    Link.post n l = { l with noticeCounter := l.noticeCounter + 1, dropped := true } :=
  if_neg (Nat.not_lt.2 hle)

theorem linkPost_begins (n : Notice) (hu : l.uTx = none) (hr : l.reply = none) (hn : l.notices = []) :
    Link.post n l =
      { l with noticeCounter := l.noticeCounter + 1, uTx := some (.notice ⟨l.noticeCounter, n⟩) } := by
  have hlt : l.notices.length < Config.noticePlaces := by rw [hn]; decide
  have hs := startU_notice (l := { l with
    noticeCounter := l.noticeCounter + 1, notices := l.notices ++ [⟨l.noticeCounter, n⟩] }) hu hr (by rw [hn]; rfl)
  exact (if_pos hlt).trans (hs.trans (by rw [hn]))

theorem answer_waits (r : Reply) (hu : l.uTx.isSome) : Link.answer r l = { l with reply := some r } := startU_busy hu

theorem answer_begins (r : Reply) (hu : l.uTx = none) :
    Link.answer r l = { l with reply := none, uTx := some (.reply r) } := startU_reply hu rfl

theorem passUp_waits (f : Frame) (hlt : l.upward.length < Config.statusPlaces) (hu : l.uTx.isSome) :
    Link.passUp f l = { l with upward := l.upward ++ [f] } := (if_pos hlt).trans (startU_busy hu)

theorem passUp_begins (f : Frame) (hu : l.uTx = none) (hr : l.reply = none) (hn : l.notices = []) (hs : l.upward = []) :
    Link.passUp f l = { l with uTx := some (.engstat f) } := by
  have hlt : l.upward.length < Config.statusPlaces := by rw [hs]; decide
  have hb := startU_status (l := { l with upward := l.upward ++ [f] }) hu hr hn (by rw [hs]; rfl)
  exact (if_pos hlt).trans (hb.trans (by rw [hs]))

theorem passUp_overrun (f : Frame) (hle : Config.statusPlaces ≤ l.upward.length) :
    Link.passUp f l = Link.post (.linkDiscard .overrun .e f.kind (raise16 l.overrunCount))
      { l with overrunCount := raise16 l.overrunCount } := if_neg (Nat.not_lt.2 hle)

end

/-- A change of the link alone, by what it makes of the link. -/
theorem onLi_eq {f : Link → Link} {s : State} {l : Link} (h : f s.li = l) : s.onLi f = { s with li := l } := by
  rw [State.onLi, h]

/-- A U-port transmission ends, and the transmitter goes on; the gate sees nothing of it. -/
theorem exec_uFrameSent {s : State} (hp : s.porst = false) (hu : s.li.uTx.isSome) :
    exec .uFrameSent s = .next (s.onLi fun l => Link.startU { l with uTx := none }) := by
  have he : uFrameSent s = s.onLi fun l => Link.startU { l with uTx := none } := if_pos hu
  rw [← he]
  exact event_same uFrameSent hp (he ▸ gateView_onLi _ (startU_feedPlace _))

theorem exec_uFrameSent_free {s : State} (hu : s.li.uTx = none) : exec .uFrameSent s = .next s :=
  event_unchanged uFrameSent (by simp [uFrameSent, hu])

/-! ## The E-port transmitter, case by case (R12) -/

section
variable {l : Link}

theorem startE_busy (h : l.eTx.isSome) : l.startE = l := by
  obtain ⟨x, hx⟩ := Option.isSome_iff_exists.1 h
  simp [Link.startE, hx]

theorem startE_halt (he : l.eTx = none) (hh : l.haltPlace = true) :
    l.startE = { l with haltPlace := false, eTx := some .halt } := by
  simp [Link.startE, he, hh]

theorem startE_divert {t : Tag} {ts : List Tag} (he : l.eTx = none) (hh : l.haltPlace = false)
    (hd : l.divertQueue = t :: ts) : l.startE = { l with divertQueue := ts, eTx := some (.divert t) } := by
  simp [Link.startE, he, hh, hd]

theorem startE_runout {r : List (Tag × Dest)} (he : l.eTx = none) (hh : l.haltPlace = false) (hd : l.divertQueue = [])
    (hr : l.runoutPlace = some r) : l.startE = { l with runoutPlace := none, eTx := some (.runout r) } := by
  simp [Link.startE, he, hh, hd, hr]

theorem startE_bandout {b : BandOut} (he : l.eTx = none) (hh : l.haltPlace = false) (hd : l.divertQueue = [])
    (hr : l.runoutPlace = none) (hb : l.bandoutPlace = some b) :
    l.startE = { l with bandoutPlace := none, eTx := some (.bandout b) } := by
  simp [Link.startE, he, hh, hd, hr, hb]

theorem startE_feed {f : Feed} (he : l.eTx = none) (hh : l.haltPlace = false) (hd : l.divertQueue = [])
    (hr : l.runoutPlace = none) (hb : l.bandoutPlace = none) (hf : l.feedPlace = some f) :
    l.startE = { l with feedPlace := none, eTx := some (.feed f) } := by
  simp [Link.startE, he, hh, hd, hr, hb, hf]

theorem startE_engcmd {c : Frame} (he : l.eTx = none) (hh : l.haltPlace = false) (hd : l.divertQueue = [])
    (hr : l.runoutPlace = none) (hb : l.bandoutPlace = none) (hf : l.feedPlace = none) (hc : l.engcmdPlace = some c) :
    l.startE = { l with engcmdPlace := none, eTx := some (.engcmd c) } := by
  simp [Link.startE, he, hh, hd, hr, hb, hf, hc]

theorem startE_idle (he : l.eTx = none) (hh : l.haltPlace = false) (hd : l.divertQueue = [])
    (hr : l.runoutPlace = none) (hb : l.bandoutPlace = none) (hf : l.feedPlace = none) (hc : l.engcmdPlace = none) :
    l.startE = l := by
  simp [Link.startE, he, hh, hd, hr, hb, hf, hc]

/-- A frame placed at the free E-port of a link in order begins at once: nothing waits before it. -/
theorem place_begins (h : LinkOk l) (he : l.eTx = none) :
    l.placeHalt = { l with eTx := some .halt } ∧
    (∀ t, l.placeDivert t = { l with eTx := some (.divert t) }) ∧
    (∀ r, l.placeRunout r = { l with eTx := some (.runout r) }) ∧
    (∀ b, l.placeBandout b = { l with eTx := some (.bandout b) }) ∧
    (∀ f, l.placeFeed f = { l with eTx := some (.feed f) }) ∧
    ∀ c, l.placeEngcmd c = { l with eTx := some (.engcmd c) } := by
  obtain ⟨hh, hd, hr, hb, hf, hc⟩ := h.eBusy he
  refine ⟨?_, fun t => ?_, fun r => ?_, fun b => ?_, fun f => ?_, fun c => ?_⟩
  · exact (startE_halt (l := { l with haltPlace := true }) he rfl).trans (by rw [hh])
  · exact (startE_divert (l := { l with divertQueue := l.divertQueue ++ [t] }) he hh (by rw [hd]; rfl)).trans (by rw [hd])
  · exact (startE_runout (l := { l with runoutPlace := some r }) he hh hd rfl).trans (by rw [hr])
  · exact (startE_bandout (l := { l with bandoutPlace := some b }) he hh hd hr rfl).trans (by rw [hb])
  · exact (startE_feed (l := { l with feedPlace := some f }) he hh hd hr hb rfl).trans (by rw [hf])
  · exact (startE_engcmd (l := { l with engcmdPlace := some c }) he hh hd hr hb hf rfl).trans (by rw [hc])

end

/-- The end of a transmission other than a HALT's or a BANDOUT's frees the E-port, which goes on. -/
theorem exec_eFrameSent {s : State} {x : EOut} (hp : s.porst = false) (hx : s.li.eTx = some x) (hh : x ≠ .halt)
    (hb : ∀ b, x ≠ .bandout b) :
    exec .eFrameSent s = .next (watchGate s (s.onLi fun l => Link.startE { l with eTx := none })) := by
  have he : eFrameSent s = s.onLi fun l => Link.startE { l with eTx := none } := by
    cases x with
    | halt => exact absurd rfl hh
    | bandout b => exact absurd rfl (hb b)
    | _ => simp only [eFrameSent, hx]
  rw [← he]
  exact event_awake eFrameSent hp

theorem exec_eFrameSent_free {s : State} (hx : s.li.eTx = none) : exec .eFrameSent s = .next s :=
  event_unchanged eFrameSent (by simp [eFrameSent, hx])

/-- ENGCMD at the FIFO head leaves it for its empty place. -/
theorem exec_engcmd {s : State} {f : Frame} {rest : List Frame} (hp : s.porst = false) (hf : s.li.fifo = f :: rest)
    (hk : f.kind = kindEngcmd) (hc : s.li.engcmdPlace = none)
    (hv : (Link.placeEngcmd f { s.li with fifo := rest }).feedPlace = s.li.feedPlace) :
    exec .engcmd s = .next (s.onLi fun l => Link.placeEngcmd f { l with fifo := rest }) := by
  have he : engcmd s = s.onLi fun l => Link.placeEngcmd f { l with fifo := rest } := by
    simp only [engcmd, hf, hk, hc, and_self, if_true]
  rw [← he]
  exact event_same engcmd hp (he ▸ gateView_onLi _ hv)

theorem exec_engcmd_waits {s : State} (hc : s.li.engcmdPlace ≠ none) : exec .engcmd s = .next s := by
  refine event_unchanged engcmd ?_
  unfold engcmd; split
  · rfl
  · exact if_neg fun h => hc h.2

end Sys2Proof.Machine

namespace Sys2Proof.Proofs
open Sys2Proof.Machine

/-- Settles O7: the cases of the U-port transmitter, at a posting, a reply and the end of a transmission. -/
theorem noticesAndUTransmitter : Obligations.NoticesAndUTransmitter := by
  unfold Obligations.NoticesAndUTransmitter
  refine ⟨fun n s => ⟨fun hlt hu => ?_, fun hle => ?_, fun hu hr hn => ?_⟩,
    fun r l => ⟨answer_waits r, answer_begins r⟩,
    fun s hp => ⟨exec_uFrameSent_free, fun x hx => ?_⟩⟩
  · exact onLi_eq (linkPost_waits n hlt hu)
  · exact onLi_eq (linkPost_dropped n hle)
  · exact onLi_eq (linkPost_begins n hu hr hn)
  · rw [exec_uFrameSent hp (by simp [hx])]
    refine ⟨fun r hr => ?_, fun n ns hr hn => ?_, fun f fs hr hn hs => ?_, fun hr hn hs => ?_⟩
    · exact congrArg Host.Outcome.next (onLi_eq (startU_reply (l := { s.li with uTx := none }) rfl hr))
    · exact congrArg Host.Outcome.next (onLi_eq (startU_notice (l := { s.li with uTx := none }) rfl hr hn))
    · exact congrArg Host.Outcome.next (onLi_eq (startU_status (l := { s.li with uTx := none }) rfl hr hn hs))
    · exact congrArg Host.Outcome.next (onLi_eq (startU_idle (l := { s.li with uTx := none }) rfl hr hn hs))

/-- Settles O8: the cases of the E-port transmitter, then its rows. -/
theorem eTransmitterOrder : Obligations.ETransmitterOrder := by
  unfold Obligations.ETransmitterOrder
  refine ⟨fun l he => ⟨startE_halt he, fun _ _ => startE_divert he, fun _ => startE_runout he,
      fun _ => startE_bandout he, fun _ => startE_feed he, fun _ => startE_engcmd he, startE_idle he⟩,
    fun l he => ⟨startE_busy he, fun _ => startE_busy he, fun _ => startE_busy he, fun _ => startE_busy he,
      fun _ => startE_busy he, fun _ => startE_busy he⟩,
    fun l => place_begins, fun s x hp hx hh hb => exec_eFrameSent hp hx hh hb,
    fun s _ hx => exec_eFrameSent_free hx, fun s f rest hp hf hk hc => ⟨fun he => ?_, fun h he => ?_⟩,
    fun s => exec_engcmd_waits⟩
  · have hw : Link.placeEngcmd f { s.li with fifo := rest } = { s.li with fifo := rest, engcmdPlace := some f } :=
      startE_busy he
    rw [exec_engcmd hp hf hk hc (by rw [hw])]
    exact congrArg Host.Outcome.next (onLi_eq hw)
  · obtain ⟨-, -, -, -, -, hbegins⟩ := place_begins (h.take hf) he
    rw [exec_engcmd hp hf hk hc (by rw [hbegins])]
    exact congrArg Host.Outcome.next (onLi_eq (hbegins f))

end Sys2Proof.Proofs
end

section
namespace Sys2Proof.Machine

/-! ## PORST (R16) -/

/-- While PORST is asserted every command but its release changes nothing (log 8). -/
theorem exec_asleep {c : Instr} (hc : c ≠ .porstRelease) {s : State} (h : s.porst = true) : exec c s = .next s := by
  cases c
  case porstRelease => exact absurd rfl hc
  case porstAssert => exact congrArg Host.Outcome.next (if_pos h)
  all_goals exact if_pos h

/-! ## The judgement of a reception (R1, R182, R183) -/

/-- Two bytes, read back, are the number they were made of. -/
theorem bytes2_value {n : Nat} (h : n < 65536) :
    (BitVec.ofNat 8 (n / 256)).toNat * 256 + (BitVec.ofNat 8 n).toNat = n := by
  simp only [BitVec.toNat_ofNat]; omega

/-- The two bytes that follow a body. -/
theorem halfAt_append (body : List Byte) (hi lo : Byte) (after : List Byte) :
    halfAt (body ++ hi :: lo :: after) body.length = hi.toNat * 256 + lo.toNat := by
  simp [halfAt, byteAt]

theorem halfAt_crc (body : List Byte) (crc : Half) (after : List Byte) :
    halfAt (body ++ half crc ++ after) body.length = crc.toNat := by
  have hv := bytes2_value crc.isLt
  simpa [half, bytes2, halfAt_append] using hv

section
variable {port : Port} {kind : Byte}

theorem judge_kind (rest : List Byte) (hk : inbound port kind = false) : judge port (kind :: rest) = .format kind := by
  simp [judge, hk]

theorem judge_cut {rest : List Byte} (hk : inbound port kind = true) (hr : rest.length < 2) :
    judge port (kind :: rest) = .check kind := by
  match rest with
  | [] => simp [judge, hk]
  | [_] => simp [judge, hk]
  | _ :: _ :: _ => simp at hr

theorem judge_length (tail : List Byte) {hi lo : Byte} (hk : inbound port kind = true)
    (hl : legalLength kind (hi.toNat * 256 + lo.toNat) = false) : judge port (kind :: hi :: lo :: tail) = .format kind := by
  simp [judge, hk, hl]

theorem judge_short {tail : List Byte} {hi lo : Byte} (hk : inbound port kind = true)
    (hl : legalLength kind (hi.toNat * 256 + lo.toNat) = true) (ht : tail.length < hi.toNat * 256 + lo.toNat + 2) :
    judge port (kind :: hi :: lo :: tail) = .check kind := by
  simp [judge, hk, hl, ht]

/-- A frame that has come whole is judged by its CRC, then by its format ranges. -/
theorem judge_whole (body : List Byte) (crc : Half) (after : List Byte) (hk : inbound port kind = true)
    (hb : body.length < 65536) (hl : legalLength kind body.length = true) :
    judge port (kind :: bytes2 body.length ++ body ++ half crc ++ after) =
      if crc = frameCrc kind body then if formatOk kind body then .good ⟨kind, body, crc⟩ else .format kind
      else .check kind := by
  have hn := bytes2_value hb
  have hlen : ¬ (body ++ half crc ++ after).length < body.length + 2 := by simp [half, bytes2]
  have htake : (body ++ half crc ++ after).take body.length = body := by simp
  change judge port (kind :: _ :: _ :: (body ++ half crc ++ after)) = _
  simp only [judge, hk, if_true, hn, hl, hlen, if_false, htake, halfAt_crc, BitVec.toNat_inj]
  split
  next he => rw [he]
  next => rfl

/-- A good frame carries the CRC of its kind and body. -/
theorem judge_good {bytes : List Byte} {f : Frame} (h : judge port bytes = .good f) : f = Frame.make f.kind f.body := by
  unfold judge at h
  dsimp only at h
  repeat' split at h
  all_goals cases h
  rfl

end

/-! ## What a reception does (R2, R3, R8, R9) -/

/-- A reception that changes the link alone, and not its FEED place, is not seen by the gate. -/
theorem exec_frameReceived_link {f : Link → Link} {s : State} {port : Port} {bytes : List Byte} (hp : s.porst = false)
    (hr : receive port bytes s = s.onLi f) (hv : (f s.li).feedPlace = s.li.feedPlace) :
    exec (.frameReceived port bytes) s = .next (s.onLi f) := by
  rw [← hr]
  exact event_same (receive port bytes) hp (hr ▸ gateView_onLi f hv)

theorem receive_check {port : Port} {bytes : List Byte} {kind : Byte} (h : judge port bytes = .check kind) (s : State) :
    receive port bytes s = s.onLi (Link.discardCheck port kind) := by simp only [receive, h]

theorem receive_format {port : Port} {bytes : List Byte} {kind : Byte} (h : judge port bytes = .format kind) (s : State) :
    receive port bytes s = s.onLi (Link.discardFormat port kind) := by simp only [receive, h]

theorem receive_good {port : Port} {bytes : List Byte} {f : Frame} (h : judge port bytes = .good f) (s : State) :
    receive port bytes s = goodFrame port f s := by simp only [receive, h]

theorem enter_joins {f : Frame} {l : Link} (h : l.fifo.length < Config.fifoPlaces) :
    l.enter f = { l with fifo := l.fifo ++ [f] } := if_pos h

theorem enter_overrun {f : Frame} {l : Link} (h : Config.fifoPlaces ≤ l.fifo.length) :
    l.enter f = l.discardOverrun .u f.kind := if_neg (Nat.not_lt.2 h)

/-- Two commands of one event have one effect. -/
theorem event_congr {f g : State → State} {s : State} (h : f s = g s) : event f s = event g s := by
  unfold event; rw [h]

/-- A good CALL has at its arrival the effect of its row. -/
theorem exec_receive_call {bytes : List Byte} {f : Frame} (h : judge .e bytes = .good f) (hk : f.kind = kindCall)
    (s : State) : exec (.frameReceived .e bytes) s = exec (.call (callBody f.body).1 (callBody f.body).2) s :=
  event_congr ((receive_good h s).trans (if_pos hk))

theorem index?_indexByte (n : Fin 6) : index? 6 (indexByte n).toNat = some n := by
  revert n; decide

section
variable (rest : List Byte)

theorem statusOf_trayEmpty (t : Tray) : statusOf (1 :: indexByte t :: rest) = some (.trayEmpty t) := by
  simp [statusOf, statusField, index?_indexByte]

theorem statusOf_trayFilled (t : Tray) : statusOf (2 :: indexByte t :: rest) = some (.trayFilled t) := by
  simp [statusOf, statusField, index?_indexByte]

theorem statusOf_binFull (b : Bin) : statusOf (3 :: indexByte b :: rest) = some (.binFull b) := by
  simp [statusOf, statusField, index?_indexByte]

theorem statusOf_binCleared (b : Bin) : statusOf (4 :: indexByte b :: rest) = some (.binCleared b) := by
  simp [statusOf, statusField, index?_indexByte]

theorem statusOf_setEjected (b : Bin) : statusOf (5 :: indexByte b :: rest) = some (.setEjected b) := by
  simp [statusOf, statusField, index?_indexByte]

theorem statusOf_compileFault (b : Bin) : statusOf (6 :: indexByte b :: rest) = some (.compileFault b) := by
  simp [statusOf, statusField, index?_indexByte]

theorem statusOf_engineFault : statusOf (7 :: rest) = some (.engineFault rest) := by simp [statusOf]

end

/-- A good ENGSTAT has at its arrival the effect of the event that reads its status and passes it up. -/
theorem exec_receive_engstat {bytes : List Byte} {f : Frame} (h : judge .e bytes = .good f) (hk : f.kind = kindEngstat)
    {x : Status} (hx : statusOf f.body = some x) (s : State) :
    exec (.frameReceived .e bytes) s =
      event (fun s => (readStatusFrame x s).onLi (Link.passUp (Frame.make kindEngstat f.body))) s := by
  have hf : f = Frame.make kindEngstat f.body := by rw [← hk]; exact judge_good h
  have hg : goodFrame .e f s = engstat f s := if_neg (by rw [hk]; decide)
  refine event_congr ((receive_good h s).trans (hg.trans ?_))
  simp only [engstat, hx, ← hf]

/-- The same for a status that no block reads. -/
theorem exec_receive_unread {bytes : List Byte} {f : Frame} (h : judge .e bytes = .good f) (hk : f.kind = kindEngstat)
    {s : State} (hu : unread s f.body = true) :
    exec (.frameReceived .e bytes) s = exec (.engstatUnread f.body) s := by
  have hf : f = Frame.make kindEngstat f.body := by rw [← hk]; exact judge_good h
  have hg : goodFrame .e f s = engstat f s := if_neg (by rw [hk]; decide)
  have he : engstat f s = s.onLi (Link.passUp f) := by
    unfold unread at hu
    unfold engstat
    split at hu
    next hx => simp only [hx]
    next b hx => simp only [hx, readStatusFrame, readCompileFault, if_neg (of_decide_eq_true hu)]
    next => cases hu
  refine event_congr ((receive_good h s).trans (hg.trans (he.trans ?_)))
  rw [engstatUnread, if_pos hu, ← hf]

end Sys2Proof.Machine

namespace Sys2Proof.Proofs
open Sys2Proof.Machine

/-- Settles O3: assertion, the time while PORST is asserted, and its release. -/
theorem porstLine : Obligations.PorstLine := by
  unfold Obligations.PorstLine
  refine fun s => ⟨fun h => ?_, fun h => ⟨?_, ?_, fun c hc => exec_asleep hc h⟩, fun h => ⟨?_, ?_⟩⟩
  · exact congrArg Host.Outcome.next (if_neg (by simp [h]))
  · simp [State.uHold, h]
  · exact congrArg Host.Outcome.next (if_pos h)
  · simp [State.uHold, h]
  · exact congrArg Host.Outcome.next (if_neg (by simp [h]))

/-- Settles O4: the reset records, block by block. -/
theorem powerOnValues : Obligations.PowerOnValues := by
  unfold Obligations.PowerOnValues
  refine ⟨?link, ?paths, ?monitor, ?tracker, ?bins, ?directory, ?capture, ?gate, ?recovery⟩
  case link => simp [State.reset, Link.reset]
  case paths => simp [State.reset, PathDesc.reset, Route.unloaded, Timing.default]
  case monitor => simp [State.reset, Monitor.reset]
  case tracker => simp [State.reset, Tracker.reset]
  case bins => simp [State.reset, Delivery.reset]
  case directory => simp [State.reset, Directory.reset, Config.blocks]
  case capture => simp [State.reset, Capture.reset]
  case gate => simp [State.reset, Gate.reset, Job.reset]
  case recovery => simp [State.reset, Recovery.reset]

/-- Settles O5: the judgement, clause by clause in the order of the reception, then what it does. -/
theorem frameReceived : Obligations.FrameReceived := by
  unfold Obligations.FrameReceived
  refine ⟨fun port kind => ⟨rfl, fun _ => judge_cut, fun rest => judge_kind rest, fun _ _ tail => judge_length tail,
      fun _ _ _ => judge_short, fun body crc after => judge_whole body crc after⟩,
    fun s port bytes hp => ⟨fun kind hj => ?_, fun kind hj => ?_, fun f hu hj hlt => ?_, fun f hu hj hle => ?_⟩⟩
  · exact exec_frameReceived_link hp (receive_check hj s) (post_kept _ _).feedPlace
  · exact exec_frameReceived_link hp (receive_format hj s) (post_kept _ _).feedPlace
  · subst hu
    have he := enter_joins (f := f) hlt
    rw [exec_frameReceived_link hp (receive_good hj s) (by rw [he])]
    exact congrArg Host.Outcome.next (onLi_eq he)
  · subst hu
    have he := enter_overrun (f := f) hle
    rw [exec_frameReceived_link hp (receive_good hj s) (by rw [he]; exact (post_kept _ _).feedPlace)]
    exact congrArg Host.Outcome.next (onLi_eq he)

/-- Settles O6: the arrival of a good E-port frame and its row are one event. -/
theorem ePortFrameActsAsItsRow : Obligations.EPortFrameActsAsItsRow := by
  unfold Obligations.EPortFrameActsAsItsRow
  refine fun s bytes f hj => ⟨fun hk => exec_receive_call hj hk s, fun hk rest => ?_⟩
  have row {x : Status} (hx : statusOf f.body = some x) := exec_receive_engstat hj hk hx s
  refine ⟨fun t hb => ?_, fun t hb => ?_, fun b hb => ?_, fun b hb => ?_, fun b hb => ?_, fun b hb => ?_, fun hb => ?_,
    exec_receive_unread hj hk⟩
  · rw [row (hb ▸ statusOf_trayEmpty rest t), hb]; rfl
  · rw [row (hb ▸ statusOf_trayFilled rest t), hb]; rfl
  · rw [row (hb ▸ statusOf_binFull rest b), hb]; rfl
  · rw [row (hb ▸ statusOf_binCleared rest b), hb]; rfl
  · rw [row (hb ▸ statusOf_setEjected rest b), hb]; rfl
  · rw [row (hb ▸ statusOf_compileFault rest b), hb]; rfl
  · rw [row (hb ▸ statusOf_engineFault rest), hb]; rfl

end Sys2Proof.Proofs
end

section
namespace Sys2Proof.Machine

/-! ## The ends of a HALT and of a BANDOUT (R13, R105, R106, R123, R124) -/

theorem unpinAbandoned_absent {s : State} {k : PageKey} (h : s.pgd.lookup k = none) : unpinAbandoned k s = s := by
  simp only [unpinAbandoned, h]

theorem unpinAbandoned_invalid {s : State} {k : PageKey} {i : Nat} {l : Line} (h : s.pgd.lookup k = some (i, l))
    (hi : l.invalidateOnUnpin = true) : unpinAbandoned k s = { s with pgd := s.pgd.dropWay i } := by
  simp only [unpinAbandoned, h, hi, if_true]; rfl

theorem unpinAbandoned_kept {s : State} {k : PageKey} {i : Nat} {l : Line} (h : s.pgd.lookup k = some (i, l))
    (hi : l.invalidateOnUnpin = false) :
    unpinAbandoned k s = { s with pgd := s.pgd.putWay i { l with pin := false, invalidateOnUnpin := false } } := by
  simp only [unpinAbandoned, h, hi, Bool.false_eq_true, if_false]; rfl

/-- An abandoned pin is the Page Directory's alone. -/
theorem unpinAbandoned_frame (k : PageKey) (s : State) :
    unpinAbandoned k s = { s with pgd := (unpinAbandoned k s).pgd } := by
  unfold unpinAbandoned
  repeat' split
  all_goals rfl

theorem unpinAbandoned_li (k : PageKey) (s : State) : (unpinAbandoned k s).li = s.li := by rw [unpinAbandoned_frame]

theorem unpinAbandoned_cre (k : PageKey) (s : State) : (unpinAbandoned k s).cre = s.cre := by rw [unpinAbandoned_frame]

section
variable {s : State} {c : CallReq} {chain : List Nat} {n : Nat}

theorem abandonReplay_idle (h : s.cre.reader = .idle) : abandonReplay s = s := by simp only [abandonReplay, h]

theorem abandonReplay_draining (h : s.cre.reader = .draining) :
    abandonReplay s = { s with cre := { s.cre with pendingCall := none } } := by
  simp only [abandonReplay, h, State.onCre]

/-- A replay that holds the port drains its transfer (R124). -/
theorem abandonReplay_reading (h : s.cre.reader = .streaming c chain n) (hp : s.cre.port = some .replay) :
    abandonReplay s = { unpinAbandoned c.key s with
      cre := { s.cre with buffer := none, pendingCall := none, reader := .draining } } := by
  simp only [abandonReplay, h, State.onCre, unpinAbandoned_cre, hp, if_true]

/-- A replay that does not hold the port withdraws its request (R124, R127). -/
theorem abandonReplay_waiting (h : s.cre.reader = .streaming c chain n) (hp : s.cre.port ≠ some .replay) :
    abandonReplay s = { unpinAbandoned c.key s with
      cre := { s.cre with
        buffer := none, pendingCall := none, reader := .idle, replayWaiting := false
        run := if s.cre.replayWaiting then 0 else s.cre.run } } := by
  simp only [abandonReplay, h, State.onCre, unpinAbandoned_cre, hp, if_false, Capture.withdrawReplay]

end

/-- The link and the monitor at the end of a HALT transmission, before the E-port goes on (R13, R41, R44). -/
def haltTaken (s : State) : State :=
  { s with
    li := { s.li with eTx := none, bandoutPlace := none }
    ckm := { s.ckm with partialCount := 0, stillCount := 0, still := .watching } }

/-- The end of a HALT transmission, by what it makes of the replay reader. -/
theorem exec_haltSent {s u : State} (hp : s.porst = false) (hx : s.li.eTx = some .halt)
    (hu : abandonReplay (haltTaken s) = u) : exec .haltSent s = .next (watchGate s (u.onLi Link.startE)) := by
  have he : haltSent s = u.onLi Link.startE := by rw [← hu]; simp only [haltSent, hx]; rfl
  rw [← he]
  exact event_awake haltSent hp

/-! ## The end of a BANDOUT -/

section
variable {s : State} {k : PageKey} {i : Nat} {l : Line}

theorem imagingDoneLine_absent (h : s.pgd.lookup k = none) : imagingDoneLine k s = s := by
  simp only [imagingDoneLine, h]

theorem imagingDoneLine_invalid (h : s.pgd.lookup k = some (i, l)) (hi : l.invalidateOnUnpin = true) :
    imagingDoneLine k s = { s with pgd := s.pgd.dropWay i } := by
  simp only [imagingDoneLine, h, hi, if_true]; rfl

/-- A page of a class is LOCKED; one that is LOCKED already keeps its recorded class (log 20). -/
theorem imagingDoneLine_locked (h : s.pgd.lookup k = some (i, l)) (hi : l.invalidateOnUnpin = false)
    (hs : l.state = .ready ∨ l.state = .locked) (hc : effectiveClass s k ≠ .none) :
    imagingDoneLine k s = { s with pgd := s.pgd.putWay i { l with
      pin := false, invalidateOnUnpin := false, state := .locked
      cls := if l.state = .locked then l.cls else effectiveClass s k } } := by
  rcases hs with hs | hs <;> simp [imagingDoneLine, h, hi, hs, hc, Line.unpin, Line.enter, State.onPgd]

/-- A page of class NONE is RELEASED. -/
theorem imagingDoneLine_released (h : s.pgd.lookup k = some (i, l)) (hi : l.invalidateOnUnpin = false)
    (hs : l.state = .ready ∨ l.state = .locked) (hc : effectiveClass s k = .none) :
    imagingDoneLine k s = { s with pgd := s.pgd.putWay i { l with
      pin := false, invalidateOnUnpin := false, state := .released, cls := .none, owner := none, setTag := none } } := by
  rcases hs with hs | hs <;> simp [imagingDoneLine, h, hi, hs, hc, Line.unpin, Line.release, Line.enter, State.onPgd]

/-- Imaging done at the Page Directory is the directory's alone. -/
theorem imagingDoneLine_frame (k : PageKey) (s : State) :
    imagingDoneLine k s = { s with pgd := (imagingDoneLine k s).pgd } := by
  unfold imagingDoneLine; dsimp only
  repeat' split
  all_goals rfl

end

/-- The side that is next to be imaged (R67, R68). -/
theorem nextSide_eq_iff (rt : Route) (r : Sheet) (side : Side) :
    nextSide rt r = some side ↔
      side = .front ∧ r.sides = .none ∨ side = .back ∧ r.sides = .front ∧ rt.duplex = true := by
  cases hs : r.sides <;> cases side <;> simp [nextSide, hs]

/-- The records after imaging done (R68): those of the tag, when the side is the next one of the tag's sheet. -/
theorem imagingDoneSheet_eq (t : Tag) (side : Side) (s : State) :
    imagingDoneSheet t side s = { s with stk := { s.stk with
      sheets := s.stk.sheets.map fun r =>
        if r.tag = t ∧ ∃ x, s.sheet? t = some x ∧
            (side = .front ∧ x.sides = .none ∨ side = .back ∧ x.sides = .front ∧ (s.routeOf x).duplex = true)
        then { r with sides := if side = .front then .front else .both } else r } } := by
  unfold imagingDoneSheet
  split
  next x hx =>
    split
    next hn =>
      have hd := (nextSide_eq_iff _ _ _).1 hn
      simp [hx, hd, updSheet, State.onStk]
    next hn =>
      have hd := mt (nextSide_eq_iff _ _ _).2 hn
      simp only [hx, Option.some.injEq, exists_eq_left', hd, and_false, if_false, List.map_id']
  next hx => simp [hx]

/-- The state once a final band's imaging is done, before a pending call starts (R106, R68, R123). -/
theorem imagingDone_eq {c : CallReq} {s w : State} (hw : watchGate s (imagingDoneLine c.key s) = w) :
    imagingDone c s = startPending { w with
      stk := { s.stk with
        sheets := s.stk.sheets.map fun r =>
          if r.tag = c.tag ∧ ∃ x, s.sheet? c.tag = some x ∧
              (c.side = .front ∧ x.sides = .none ∨ c.side = .back ∧ x.sides = .front ∧ (s.routeOf x).duplex = true)
          then { r with sides := if c.side = .front then .front else .both } else r }
      cre := { s.cre with reader := .idle } } := by
  have hk := watchGate_watched s (imagingDoneLine c.key s)
  have hstk : w.stk = s.stk := by rw [← hw, hk.stk, imagingDoneLine_frame]
  have hpds : w.pds = s.pds := by rw [← hw, hk.pds, imagingDoneLine_frame]
  have hcre : w.cre = s.cre := by rw [← hw, hk.cre, imagingDoneLine_frame]
  have hsheet : w.sheet? c.tag = s.sheet? c.tag := by rw [State.sheet?, hstk]; rfl
  have hroute : w.routeOf = s.routeOf := by funext r; simp only [State.routeOf, State.route, hpds]
  unfold imagingDone watched
  rw [hw, imagingDoneSheet_eq, hstk, hsheet, hroute]
  simp only [State.onCre, hcre]

theorem startPending_none {s : State} (h : s.cre.pendingCall = none) : startPending s = s := by
  simp only [startPending, h]

theorem startPending_some {s : State} {q : CallReq} (h : s.cre.pendingCall = some q) :
    startPending s = tryReplay q { s with cre := { s.cre with pendingCall := none } } := by
  simp only [startPending, h]; rfl

/-- The link as the end of a BANDOUT leaves it, before the E-port goes on (R12). -/
def bandoutTaken (s : State) : State := { s with li := { s.li with eTx := none } }

/-- The end of a BANDOUT that is not the current replay's final band frees the E-port. -/
theorem exec_bandoutSent_plain {s : State} {b : BandOut} (hp : s.porst = false) (hx : s.li.eTx = some (.bandout b))
    (hf : finalOf b (bandoutTaken s) = none) :
    exec .bandoutSent s = .next (watchGate s ((bandoutTaken s).onLi Link.startE)) := by
  have he : bandoutSent s = (bandoutTaken s).onLi Link.startE := by
    have ht : (s.onLi fun l => { l with eTx := none }) = bandoutTaken s := rfl
    simp only [bandoutSent, hx, ht, hf]
  rw [← he]
  exact event_awake bandoutSent hp

/-- The end of the current replay's final BANDOUT: imaging done, and then the E-port goes on (log 31). -/
theorem exec_bandoutSent_final {s u : State} {b : BandOut} {c : CallReq} (hp : s.porst = false)
    (hx : s.li.eTx = some (.bandout b)) (hf : finalOf b (bandoutTaken s) = some c)
    (hu : imagingDone c (bandoutTaken s) = u) :
    exec .bandoutSent s = .next (watchGate s (u.onLi Link.startE)) := by
  have he : bandoutSent s = u.onLi Link.startE := by
    have ht : (s.onLi fun l => { l with eTx := none }) = bandoutTaken s := rfl
    simp only [bandoutSent, hx, ht, hf, hu]
  rw [← he]
  exact event_awake bandoutSent hp

theorem finalOf_notFinal {b : BandOut} {s : State} (h : b.final = false) : finalOf b s = none := by
  unfold finalOf; split
  · exact if_neg fun hf => by simp [h] at hf
  · rfl
  · rfl

theorem finalOf_final {b : BandOut} {s : State} {c : CallReq} {chain : List Nat}
    (hr : s.cre.reader = .streaming c chain chain.length) (hb : s.cre.buffer = none) (hp : s.li.bandoutPlace = none)
    (hf : b.final = true) (ht : b.tag = c.tag) (hs : b.side = c.side) : finalOf b s = some c := by
  simp [finalOf, hr, hb, hp, hf, ht, hs]

end Sys2Proof.Machine

namespace Sys2Proof.Proofs
open Sys2Proof.Machine

/-- Settles O9: what the reader does decides; the rest of a HALT's end is the same in every case. -/
theorem haltSent : Obligations.HaltSent := by
  unfold Obligations.HaltSent
  refine ⟨fun s k => ⟨unpinAbandoned_absent, fun i l h => ⟨unpinAbandoned_invalid h, unpinAbandoned_kept h⟩⟩,
    fun s hp hx => ⟨fun hr => ?_, fun hr => ?_, fun c chain n hr hport => ?_, fun c chain n hr hport => ?_⟩⟩
  · exact exec_haltSent hp hx (abandonReplay_idle (s := haltTaken s) hr)
  · exact exec_haltSent hp hx (abandonReplay_draining (s := haltTaken s) hr)
  · rw [exec_haltSent hp hx (abandonReplay_reading (s := haltTaken s) hr hport)]
    simp only [State.onLi, unpinAbandoned_li]; rfl
  · rw [exec_haltSent hp hx (abandonReplay_waiting (s := haltTaken s) hr hport)]
    simp only [State.onLi, unpinAbandoned_li]; rfl

/-- Settles O38: a BANDOUT sent with and without a final band, and the line's four ends. -/
theorem bandoutSent : Obligations.BandoutSent := by
  unfold Obligations.BandoutSent
  refine ⟨fun s b hp hx => ⟨fun hf => ?_, fun c chain hr hb hplace hf ht hs => ?_⟩,
    fun s k => ⟨imagingDoneLine_absent, fun i l h => ⟨imagingDoneLine_invalid h, imagingDoneLine_locked h,
      imagingDoneLine_released h⟩⟩⟩
  · exact exec_bandoutSent_plain hp hx (finalOf_notFinal hf)
  · have hfinal : finalOf b (bandoutTaken s) = some c := finalOf_final hr hb hplace hf ht hs
    have hdone := imagingDone_eq (c := c) (s := bandoutTaken s) rfl
    refine ⟨fun hc => ?_, fun q hc => ?_⟩
    · exact exec_bandoutSent_final hp hx hfinal (hdone.trans (startPending_none hc))
    · exact exec_bandoutSent_final hp hx hfinal (hdone.trans (startPending_some hc))

end Sys2Proof.Proofs
end

section
namespace Sys2Proof.Machine

/-! ## The request rows (R6, R7, R184) -/

/-- Each row of a request code of its own takes the requests of that code. -/
theorem exec_requestRow : ∀ x ∈ requestRows, ∃ act, ∀ s, exec x.1 s = onRequest x.2.1 act s := by
  simp only [requestRows, List.forall_mem_append, List.forall_mem_cons, List.not_mem_nil, false_imp_iff, implies_true,
    and_true]
  repeat' apply And.intro
  all_goals exact ⟨_, fun _ => rfl⟩

/-- The length R184 gives the requests of a row's code. -/
theorem requestLengthOk_row :
    ∀ x ∈ requestRows, ∀ q : Request, q.code = x.2.1 → requestLengthOk q = some (decide (q.body.length = x.2.2)) := by
  simp only [requestRows, List.forall_mem_append, List.forall_mem_cons, List.not_mem_nil, false_imp_iff, implies_true,
    and_true]
  repeat' apply And.intro
  all_goals
    intro q hq
    unfold requestLengthOk
    rw [hq]; rfl

theorem requestLengthOk_loadRoute {q : Request} (hq : q.code = codeLoadRoute) :
    requestLengthOk q =
      some (decide (9 ≤ q.body.length ∧ byteAt q.body 8 ≤ 12 ∧ q.body.length = 9 + 10 * byteAt q.body 8)) := by
  unfold requestLengthOk; rw [hq]; rfl

/-- A code of no row has no length of its own. -/
theorem requestLengthOk_unknown {q : Request} (hl : q.code ≠ codeLoadRoute) (hr : ∀ x ∈ requestRows, q.code ≠ x.2.1) :
    requestLengthOk q = none := by
  simp only [requestRows, List.forall_mem_append, List.forall_mem_cons] at hr
  simp [requestLengthOk, hl, hr]

section
variable {wanted : Request → Bool} (act : Request → State → State) {s : State} {q : Request} {rest : List Frame}

/-- The LI itself answers a request of a wrong length (R6). -/
theorem event_wrongLength (h : Requested s q rest) (hw : wanted q = true) (hl : requestLengthOk q = some false) :
    event (takeRequest wanted act) s = .next (s.answered q .refusedInvalid [] rest) := by
  rw [event_awake _ h.awake, takeRequest_taken act h hw, if_pos hl, watchGate_same (gateView_answered _ _ _ _ _)]

/-- A request row waits for the reply place (R6). -/
theorem event_replyWaits (wanted : Request → Bool) (h : s.li.reply ≠ none) :
    event (takeRequest wanted act) s = .next s :=
  event_unchanged _ (takeRequest_waits wanted act h)

end

/-- The LI itself answers a request of an unknown code (R6). -/
theorem exec_unknownRequest {s : State} {q : Request} {rest : List Frame} (h : Requested s q rest)
    (hq : requestLengthOk q = none) :
    exec .mgmtUnknownRequest s = .next (s.answered q .refusedUnknown [] rest) := by
  have ht := takeRequest_taken (wanted := fun q => decide (requestLengthOk q = none))
    (fun q s => reply q .refusedUnknown [] s) h (by simpa using hq)
  rw [if_neg (by simp [hq])] at ht
  change event _ s = _
  rw [event_awake _ h.awake, ht]
  exact congrArg Host.Outcome.next (watchGate_same (gateView_answered _ _ _ _ _))

theorem requestCommands_wait {c : Instr} (hc : c ∈ requestCommands) {s : State} (h : s.li.reply ≠ none) :
    exec c s = .next s := by
  rcases List.mem_append.1 hc with hc | hc
  · simp only [List.mem_cons, List.not_mem_nil, or_false] at hc
    rcases hc with rfl | rfl | rfl
    all_goals exact event_replyWaits _ _ h
  · obtain ⟨x, hx, rfl⟩ := List.mem_map.1 hc
    obtain ⟨act, he⟩ := exec_requestRow x hx
    rw [he]; exact event_replyWaits _ _ h

/-! ## READ STATUS and RESET PART (R14, R15) -/

theorem requestLengthOk_of_row {c : Instr} {code n : Nat} (hx : (c, code, n) ∈ requestRows) {q : Request}
    (hq : q.code = code) (hn : q.body.length = n) : requestLengthOk q ≠ some false := by
  rw [requestLengthOk_row _ hx q hq]; simp [hn]

theorem gateView_readStatus (q : Request) (s : State) : gateView s = gateView (readStatus q s) := by
  refine (gateView_replied s q .done (statusReply s)).trans (gateView_onLi _ ?_)
  dsimp only; split <;> rfl

theorem dropMarks_empty {g : Gate} (ho : g.orq = []) (hr : g.ril = []) : g.dropMarks = g := by
  cases g; cases ho; cases hr; rfl

/-- A gate without entries has no marks to drop, and out of RUNNING nothing is judged. -/
theorem watchGate_emptyGate (before : State) {s : State} (ho : s.ogt.orq = []) (hr : s.ogt.ril = [])
    (hm : s.pds.mode = .setup) : watchGate before s = s := by
  have hd : s.onOgt Gate.dropMarks = s := by rw [State.onOgt, dropMarks_empty ho hr]
  unfold watchGate
  split
  · rfl
  · rw [hd]; simp [hm]

end Sys2Proof.Machine

namespace Sys2Proof.Proofs
open Sys2Proof.Machine

/-- Settles O10: the lengths row by row, and what the LI does before any owner acts. -/
theorem requestsTheLinkAnswers : Obligations.RequestsTheLinkAnswers := by
  unfold Obligations.RequestsTheLinkAnswers
  refine ⟨fun s q rest h hl hr => exec_unknownRequest h (requestLengthOk_unknown hl hr),
    fun c code n hx s q rest h hq hn => ?_, fun s q rest h hq hn => ?_, fun c hc s => requestCommands_wait hc⟩
  · obtain ⟨act, he⟩ := exec_requestRow _ hx
    have hl := requestLengthOk_row _ hx q hq
    exact (he s).trans (event_wrongLength act h (by simpa using hq) (by rw [hl]; simpa using hn))
  · have hl : requestLengthOk q = some false := by rw [requestLengthOk_loadRoute hq]; simpa using hn
    split
    next hu => exact event_wrongLength _ h hu hl
    next hu => exact event_wrongLength _ h (by simp [loads, hq, hu]) hl

/-- Settles O11: the reply is made of the link as it stands when the request is taken; the gate sees nothing of it. -/
theorem readStatusReportsAndClears : Obligations.ReadStatusReportsAndClears := by
  unfold Obligations.ReadStatusReportsAndClears
  intro s q rest h hq hn l
  have hl := requestLengthOk_of_row (c := .readStatus) (by simp [requestRows]) hq hn
  have hv := (gateView_taken s rest).trans (gateView_readStatus q (s.taken rest))
  refine (onRequest_quiet readStatus h hq hl hv).trans (congrArg Host.Outcome.next (onLi_eq ?_))
  by_cases h0 : byteAt q.body 3 = 0
  · rw [if_pos h0]; exact if_neg (by simp [optionAt, h0])
  · rw [if_neg h0]; exact if_pos (by simp [optionAt, h0])

/-- Settles O12: the soft-reset values leave the gate nothing to watch. -/
theorem resetPart : Obligations.ResetPart := by
  unfold Obligations.ResetPart
  intro s q rest h hq hn
  have hl := requestLengthOk_of_row (c := .resetPart) (by simp [requestRows]) hq hn
  refine (onRequest_taken Machine.resetPart h hq hl).trans ?_
  rw [watchGate_emptyGate s rfl rfl rfl]
  rfl

end Sys2Proof.Proofs
end

section
namespace Sys2Proof.Machine

/-! ## Engine status (R9, R33, R70, R84, R141, R159) -/

/-- A table entry changed to itself. -/
theorem upd_id {α : Type} {n : Nat} (v : Vector α n) (i : Fin n) {f : α → α} (h : f v[i] = v[i]) : upd v i f = v := by
  unfold upd; rw [h]; simp

/-- What is read off a table's entries stays when the changed entry keeps it. -/
theorem map_upd {α β : Type} {n : Nat} (v : Vector α n) (i : Fin n) {f : α → α} {g : α → β} (h : g (f v[i]) = g v[i]) :
    (upd v i f).toList.map g = v.toList.map g := by
  have hv : (upd v i f).map g = v.map g := by
    ext j hj
    simp only [Vector.getElem_map, upd, Vector.getElem_set]
    split
    next he => subst he; exact h
    next => rfl
  rw [← Vector.toList_map, ← Vector.toList_map, hv]

theorem passUp_feedPlace (f : Frame) (l : Link) : (Link.passUp f l).feedPlace = l.feedPlace := by
  unfold Link.passUp; split
  · exact startU_feedPlace _
  · exact (post_kept _ _).feedPlace

/-- The gate sees nothing of a status on its way up. -/
theorem gateView_passUp (f : Frame) (s : State) : gateView s = gateView (s.onLi (Link.passUp f)) :=
  gateView_onLi _ (passUp_feedPlace f s.li)

/-- A status that changes nothing the gate watches is passed up after its change. -/
theorem event_passUp_quiet {f : State → State} {u : State} (x : Frame) {s : State} (hp : s.porst = false)
    (hf : f s = u) (hv : gateView s = gateView u) :
    event (fun s => (f s).onLi (Link.passUp x)) s = .next (u.onLi (Link.passUp x)) := by
  subst hf; exact event_same _ hp (hv.trans (gateView_passUp x (f s)))

/-- A status that changes something is passed up after its change, and the gate watches both. -/
theorem event_passUp {f : State → State} {u : State} (x : Frame) {s : State} (hp : s.porst = false) (hf : f s = u) :
    event (fun s => (f s).onLi (Link.passUp x)) s = .next (watchGate s (u.onLi (Link.passUp x))) := by
  subst hf; exact event_awake _ hp

/-! ### Trays -/

/-- A tray's flags as its empty flag takes a value (R141). -/
def State.withEmpty (t : Tray) (v : Bool) (s : State) : State :=
  { s with ogt := { s.ogt with trays := upd s.ogt.trays t fun f =>
    { f with empty := v, supplyReported := if v then f.supplyReported else false } } }

theorem setTrayFlags_empty (t : Tray) (v : Bool) (s : State) :
    setTrayFlags t (fun f => { f with empty := v, supplyReported := f.supplyReported && v }) s = s.withEmpty t v := by
  have hf : (fun f : TrayFlags => { f with empty := v, supplyReported := f.supplyReported && v }) =
      fun f => { f with empty := v, supplyReported := if v then f.supplyReported else false } := by
    funext f; cases v <;> simp
  rw [hf]; rfl

theorem setEmpty_same {t : Tray} {v : Bool} {s : State} (h : s.ogt.trays[t].empty = v) :
    setEmpty t v s = s.withEmpty t v := (if_pos h).trans (setTrayFlags_empty t v s)

theorem setEmpty_changed {t : Tray} {v : Bool} {s : State} (h : s.ogt.trays[t].empty ≠ v) :
    setEmpty t v s = supplyReport (s.withEmpty t v) := (if_neg h).trans (congrArg supplyReport (setTrayFlags_empty t v s))

/-- A tray that is already empty keeps its flags. -/
theorem withEmpty_true {t : Tray} {s : State} (h : s.ogt.trays[t].empty = true) : s.withEmpty t true = s := by
  unfold State.withEmpty
  rw [upd_id _ _ (by simp [← h])]

/-- The gate sees a tray's empty and held flags alone. -/
theorem gateView_withEmpty {t : Tray} {v : Bool} {s : State} (h : s.ogt.trays[t].empty = v) :
    gateView s = gateView (s.withEmpty t v) := by
  have hm := map_upd s.ogt.trays t (g := fun f : TrayFlags => (f.empty, f.held))
    (f := fun f => { f with empty := v, supplyReported := if v then f.supplyReported else false }) (by rw [← h])
  simp only [gateView, State.withEmpty, hm]; rfl

/-! ### Bins -/

/-- A bin's record as the bin becomes full or not full (R84). -/
def State.withFull (b : Bin) (v : Bool) (s : State) : State :=
  { s with dlu := { s.dlu with bins := upd s.dlu.bins b fun x => { x with full := v } } }

theorem setFull_same {b : Bin} {v : Bool} {s : State} (h : s.dlu.bins[b].full = v) : setFull b v s = s := by
  refine (if_pos h).trans ?_
  unfold onBin State.onDlu; dsimp only
  rw [upd_id _ _ (by simp [← h])]

theorem setFull_changed {b : Bin} {v : Bool} {s : State} (h : s.dlu.bins[b].full ≠ v) :
    setFull b v s = supplyReport (s.withFull b v) := if_neg h

/-- The bin's change at a BIN FULL, judged by the gate (R84, R135). -/
theorem watched_setFull (b : Bin) (s : State) :
    watched (setFull b true) s =
      if s.dlu.bins[b].full = true then s else watchGate s (supplyReport (s.withFull b true)) := by
  unfold watched; split
  next h => rw [setFull_same h, watchGate_same rfl]
  next h => rw [setFull_changed h]

theorem binFault_empty {b : Bin} {s : State} (ha : s.staged b .a = none) (hb : s.staged b .b = none) :
    binFault b s = s := if_pos (by simp [State.queueEmpty, ha, hb])

theorem binFault_holds {b : Bin} {s : State} (h : (s.staged b .a).isSome ∨ (s.staged b .b).isSome) :
    binFault b s = raiseJam .sequence none none (some (.bin b)) (markStage b .b (markStage b .a s)) := by
  refine if_neg ?_
  simp only [State.queueEmpty, Bool.and_eq_true, Option.isNone_iff_eq_none]
  rintro ⟨ha, hb⟩
  simp [ha, hb] at h

section
variable {b : Bin} {s told : State} (ht : watched (setFull b true) s = told)
include ht

theorem told_pds : told.pds = s.pds := by
  have hs := closed_pds s.pds
  rw [← ht]
  refine hs.watched (fun u hu => ?_) rfl
  unfold setFull; dsimp only; split
  · exact hu
  · exact hs.supplyReport hu

theorem readBinFull_setup (hm : s.pds.mode = .setup) : readBinFull b s = told := by
  simp [readBinFull, ht, told_pds ht, hm]

theorem readBinFull_running (hm : s.pds.mode = .running) :
    readBinFull b s = raiseSupply .binFull (.bin b) (binFault b told) := by
  simp [readBinFull, ht, told_pds ht, hm]

end

/-! ### Reports to the Recovery Controller (R154, R159) -/

/-- An object no longer lacking: a tray that is not empty, a bin that is not full (R159). -/
theorem stillLacking_eq_false (s : State) (x : Obj) :
    stillLacking s x = false ↔
      (∀ t, x = .tray t → s.ogt.trays[t].empty = false) ∧ ∀ b, x = .bin b → s.dlu.bins[b].full = false := by
  cases x <;> simp [stillLacking]

theorem testSupply_eq (cl : IncClass → State → State) {s : State} {i : Incident} (hi : s.rcc.supply = some i) :
    testSupply cl s = if ∀ x ∈ i.hold, stillLacking s x = false then cl .supply s else s := by
  have hh : holdList .supply s = i.hold := by simp [holdList, Recovery.get, hi]
  unfold testSupply
  rw [hh]
  split
  next ha =>
    obtain ⟨x, hx, hl⟩ := List.any_eq_true.1 ha
    rw [if_neg fun hn => by simp [hn x hx] at hl]
  next ha => rw [if_pos fun x hx => by simpa using fun hl => ha (List.any_eq_true.2 ⟨x, hx, hl⟩)]

theorem supplyReport_absent {s : State} (h : s.rcc.supply = none) : supplyReport s = s :=
  if_neg (by simp [Recovery.activeIn, Recovery.get, h])

theorem supplyReport_open {s : State} {i : Incident} (h : s.rcc.supply = some i) :
    supplyReport s =
      if i.status = .active ∧ i.phase = .hold ∧ ∀ x ∈ i.hold, stillLacking s x = false then close .supply s else s := by
  have ha : s.rcc.activeIn .supply .hold = decide (i.status = .active ∧ i.phase = .hold) := by
    simp [Recovery.activeIn, Recovery.get, h]
  unfold supplyReport
  rw [ha, testSupply_eq close h]
  by_cases hs : i.status = .active ∧ i.phase = .hold
  · simp [hs]
  · rw [if_neg (by simpa using hs), if_neg fun hn => hs ⟨hn.1, hn.2.1⟩]

end Sys2Proof.Machine

namespace Sys2Proof.Proofs
open Sys2Proof.Machine

/-- Settles O40: trays, bins, faults, the report, and the copy upward. -/
theorem engineStatus : Obligations.EngineStatus := by
  unfold Obligations.EngineStatus
  refine ⟨?trays, ?bins, ?faults, ?report, fun l f => ⟨passUp_waits f, passUp_begins f, passUp_overrun f⟩⟩
  case trays =>
    intro s t rest hp up flags
    refine ⟨fun h => ?_, fun h => ⟨?_, ?_⟩, fun h => ?_⟩
    · exact event_passUp_quiet _ hp ((setEmpty_same h).trans (withEmpty_true h)) rfl
    · exact event_passUp _ hp (setEmpty_changed (by rw [h]; decide))
    · exact event_passUp_quiet _ hp (setEmpty_same h) (gateView_withEmpty h)
    · exact event_passUp _ hp (setEmpty_changed (by rw [h]; decide))
  case bins =>
    intro s b rest hp up bin told
    have ht : watched (setFull b true) s = told := watched_setFull b s
    refine ⟨fun h => ?_, fun h => ?_, fun hm => ?_, fun hm ha hb => ?_, fun hm h => ?_⟩
    · exact event_passUp_quiet _ hp (setFull_same h) rfl
    · exact event_passUp _ hp (setFull_changed (by rw [h]; decide))
    · exact event_passUp _ hp (readBinFull_setup ht hm)
    · exact event_passUp _ hp ((readBinFull_running ht hm).trans (by rw [binFault_empty ha hb]))
    · exact event_passUp _ hp ((readBinFull_running ht hm).trans (by rw [binFault_holds h]))
  case faults =>
    intro s b code rest body hp up
    refine ⟨event_passUp _ hp rfl, fun h => ?_, fun h => ?_, fun h => ?_⟩
    · exact event_passUp _ hp (if_pos h)
    · exact event_passUp_quiet _ hp (if_neg h) rfl
    · have he : engstatUnread body s = s.onLi (Link.passUp (Frame.make kindEngstat body)) := if_pos h
      exact (event_same _ hp (he ▸ gateView_passUp _ s)).trans (congrArg Host.Outcome.next he)
  case report =>
    intro s
    split
    next i hi =>
      have hr := supplyReport_open hi
      simp only [stillLacking_eq_false] at hr
      split
      next hc => exact hr.trans (if_pos hc)
      next hc => exact hr.trans (if_neg hc)
    next hi => exact supplyReport_absent hi

end Sys2Proof.Proofs
end

section
namespace Sys2Proof.Machine

/-! ## The requests of the Path Description Store (R18 to R30) -/

theorem inSetup_running (act : Request → State → State) (q : Request) {s : State} (hm : s.pds.mode = .running) :
    inSetup act q s = s.replied q .refusedMode [] := if_pos hm

theorem inSetup_setup (act : Request → State → State) (q : Request) {s : State} (hm : s.pds.mode = .setup) :
    inSetup act q s = act q s := if_neg (by simp [hm])

section
variable {wanted : Request → Bool} {act : Request → State → State} {s u : State} {q : Request} {rest : List Frame}
  {code : ReplyCode} {body : List Byte}

/-- A row whose owner answers, the gate seeing nothing of what it does, leaves what the owner made, answered. -/
theorem event_answered (h : Requested s q rest) (hw : wanted q = true) (hl : requestLengthOk q ≠ some false)
    (ha : act q (s.taken rest) = (u.taken rest).replied q code body) (hv : gateView s = gateView u) :
    event (takeRequest wanted act) s = .next (u.answered q code body rest) := by
  rw [event_awake _ h.awake, takeRequest_taken act h hw, if_neg hl, ha]
  exact congrArg Host.Outcome.next (watchGate_same (hv.trans (gateView_answered u q code body rest)))

/-- A row of SETUP alone refuses in RUNNING (R26). -/
theorem event_inSetup_running (h : Requested s q rest) (hw : wanted q = true) (hl : requestLengthOk q ≠ some false)
    (hm : s.pds.mode = .running) :
    event (takeRequest wanted (inSetup act)) s = .next (s.answered q .refusedMode [] rest) :=
  event_answered h hw hl (inSetup_running act q hm) rfl

/-- In SETUP it answers as its owner does. -/
theorem event_inSetup_setup (h : Requested s q rest) (hw : wanted q = true) (hl : requestLengthOk q ≠ some false)
    (hm : s.pds.mode = .setup) (ha : act q (s.taken rest) = (u.taken rest).replied q code body)
    (hv : gateView s = gateView u) :
    event (takeRequest wanted (inSetup act)) s = .next (u.answered q code body rest) :=
  event_answered h hw hl ((inSetup_setup (s := s.taken rest) act q hm).trans ha) hv

end

/-! ### LOAD ROUTE (R18, R19) -/

theorem unloads_eq_true {q : Request} (hq : q.code = codeLoadRoute) (hn : 9 ≤ q.body.length)
    (h0 : byteAt q.body 4 = 0) : unloads q = true := decide_eq_true ⟨hq, by omega, h0⟩

theorem loads_eq_true {q : Request} (hq : q.code = codeLoadRoute) (h0 : byteAt q.body 4 ≠ 0) : loads q = true := by
  simp [loads, unloads, hq, h0]

/-- A LOAD ROUTE of the length its step count asks for is not refused by the LI. -/
theorem requestLengthOk_loadRoute_fits {q : Request} (hq : q.code = codeLoadRoute) (hn : 9 ≤ q.body.length)
    (hc : byteAt q.body 8 ≤ 12) (he : q.body.length = 9 + 10 * byteAt q.body 8) : requestLengthOk q ≠ some false := by
  rw [requestLengthOk_loadRoute hq, decide_eq_true ⟨hn, hc, he⟩]; decide

/-- An index read from its byte is the one that byte names. -/
theorem indexAt_eq {n : Nat} (h : 0 < n) {b : List Byte} {i : Nat} {x : Fin n} (hx : x.val = byteAt b i) :
    indexAt n h b i = x := Fin.ext (by simp [indexAt, ← hx, Nat.mod_eq_of_lt x.isLt])

theorem index?_eq_some {n x : Nat} {i : Fin n} (hi : i.val = x) : index? n x = some i := by
  subst hi; exact dif_pos i.isLt

theorem index?_eq_none {n x : Nat} (hx : n ≤ x) : index? n x = none := dif_neg (Nat.not_lt.2 hx)

section
variable {q : Request} {n : RouteNo} (s : State)

theorem loadRoute_refused {field : List Byte} (hf : routeFault q.body = some field) :
    loadRoute q s = s.replied q .refusedInvalid field := by simp only [loadRoute, hf]; rfl

theorem loadRoute_done (hf : routeFault q.body = none) (hn : n.val = byteAt q.body 3) :
    loadRoute q s = (setRoute n (fun _ => routeAt q.body) s).replied q .done [] := by
  simp only [loadRoute, hf, indexAt_eq (by decide) hn]; rfl

theorem unloadRoute_routeAbsent (hr : 16 ≤ byteAt q.body 3) :
    unloadRoute q s = s.replied q .refusedInvalid (naming 3) := if_pos hr

theorem unloadRoute_hasSteps (hr : byteAt q.body 3 < 16) (hc : byteAt q.body 8 ≠ 0) :
    unloadRoute q s = s.replied q .refusedInvalid (naming 8) := (if_neg (by omega)).trans (if_pos hc)

theorem unloadRoute_done (hc : byteAt q.body 8 = 0) (hn : n.val = byteAt q.body 3) :
    unloadRoute q s = (setRoute n (fun r => { r with loaded := false, steps := [] }) s).replied q .done [] := by
  have hr : ¬16 ≤ byteAt q.body 3 := by have := n.isLt; omega
  rw [unloadRoute, if_neg hr, if_neg (not_not.2 hc), indexAt_eq (by decide) hn]; rfl

end

/-- Unloading a route that is not loaded and has no steps changes nothing. -/
theorem setRoute_unloaded {n : RouteNo} {s : State} (hl : s.pds.routes[n].loaded = false)
    (hs : s.pds.routes[n].steps = []) : setRoute n (fun r => { r with loaded := false, steps := [] }) s = s := by
  unfold setRoute State.onPds; dsimp only
  rw [upd_id _ _ (by rw [← hl, ← hs])]

/-! ### LOAD BIN, LOAD TRAY (R21, R22) -/

section
variable {q : Request} {n : Fin 7} (s : State)

theorem loadBin_absent (hr : 7 ≤ byteAt q.body 3) : loadBin q s = s.replied q .refusedInvalid (naming 3) := by
  simp only [loadBin, index?_eq_none hr]; rfl

theorem loadBin_refused (hn : n.val = byteAt q.body 3) {field : Nat} (hf : binFieldFault s n q.body = some field) :
    loadBin q s = s.replied q .refusedInvalid (naming field) := by
  simp only [loadBin, index?_eq_some hn, hf]; rfl

theorem loadBin_done (hn : n.val = byteAt q.body 3) (hf : binFieldFault s n q.body = none) :
    loadBin q s = (writeBin n q.body s).replied q .done [] := by
  simp only [loadBin, index?_eq_some hn, hf]; rfl

end

theorem yesNoAt_eq_none {b : List Byte} {i : Nat} (h : 2 ≤ byteAt b i) : yesNoAt b i = none := by
  rw [yesNoAt, if_neg (by omega), if_neg (by omega)]

theorem yesNoAt_eq_some {b : List Byte} {i : Nat} {v : Bool} (h : v.toNat = byteAt b i) : yesNoAt b i = some v := by
  cases v <;> simp [yesNoAt, ← h]

theorem otherCompile_eq_true {s : State} {n : Fin 7} :
    otherCompile s n = true ↔ ∃ b : Fin 7, b ≠ n ∧ s.pds.bins[b] = ⟨true, .compile⟩ := by
  have entry (e : BinEntry) : e = ⟨true, .compile⟩ ↔ e.configured = true ∧ e.kind = .compile := by cases e; simp
  simp [otherCompile, entry]

section
variable {s : State} {n : Fin 7} {b : List Byte}

theorem binFieldFault_flag (h : 2 ≤ byteAt b 4) : binFieldFault s n b = some 4 := by
  simp [binFieldFault, yesNoAt_eq_none h]

theorem binFieldFault_unconfigured (h : byteAt b 4 = 0) : binFieldFault s n b = none := by
  simp [binFieldFault, yesNoAt_eq_some (v := false) h.symm, h]

/-- A bin that is to be configured is judged by its kind and, for BP, by its exit checkpoint (R21). -/
theorem binFieldFault_configured (h : byteAt b 4 = 1) : binFieldFault s n b =
    if 2 ≤ byteAt b 5 ∨ byteAt b 5 = 1 ∧ (n = 6 ∨ otherCompile s n = true) then some 5
    else if n = 6 ∧ 24 ≤ byteAt b 6 then some 6 else none := by
  rw [binFieldFault, yesNoAt_eq_some (v := true) h.symm]
  by_cases hk : 2 ≤ byteAt b 5
  · simp [h, hk]
  by_cases h1 : byteAt b 5 = 1
  · by_cases h6 : n = 6 <;> simp [h, h1, h6]
  · simp [h, h1, hk]

theorem binFieldFault_kind (h : byteAt b 4 = 1)
    (hk : 2 ≤ byteAt b 5 ∨ byteAt b 5 = 1 ∧ (n = 6 ∨ ∃ m : Fin 7, m ≠ n ∧ s.pds.bins[m] = ⟨true, .compile⟩)) :
    binFieldFault s n b = some 5 := by
  rw [binFieldFault_configured h, if_pos (by rwa [otherCompile_eq_true])]

theorem binFieldFault_exit (h : byteAt b 4 = 1) (hk : byteAt b 5 = 0) (hn : n = 6) (hc : 24 ≤ byteAt b 6) :
    binFieldFault s n b = some 6 := by
  rw [binFieldFault_configured h, if_neg (by omega), if_pos ⟨hn, hc⟩]

theorem binFieldFault_plain (h : byteAt b 4 = 1) (hk : byteAt b 5 = 0) (hc : n = 6 → byteAt b 6 < 24) :
    binFieldFault s n b = none := by
  rw [binFieldFault_configured h, if_neg (by omega), if_neg fun he => Nat.not_le.2 (hc he.1) he.2]

theorem binFieldFault_compile (h : byteAt b 4 = 1) (hk : byteAt b 5 = 1) (hn : n ≠ 6)
    (ho : ∀ m : Fin 7, m ≠ n → s.pds.bins[m] ≠ ⟨true, .compile⟩) : binFieldFault s n b = none := by
  have hother : ¬otherCompile s n = true := by
    rw [otherCompile_eq_true]
    exact fun ⟨m, hm, he⟩ => ho m hm he
  rw [binFieldFault_configured h, if_neg (by simp [hk, hn, hother]), if_neg fun he => hn he.1]

theorem writeBin_unconfigured (h : byteAt b 4 = 0) (s : State) :
    writeBin n b s = s.onPds fun p => { p with bins := upd p.bins n fun _ => ⟨false, .plain⟩ } := by
  simp only [writeBin, h, if_true]

theorem writeBin_plain (h : byteAt b 4 = 1) (hk : byteAt b 5 = 0) (hn : n ≠ 6) (s : State) :
    writeBin n b s = s.onPds fun p => { p with bins := upd p.bins n fun _ => ⟨true, .plain⟩ } := by
  simp [writeBin, h, hk, hn]

theorem writeBin_compile (h : byteAt b 4 = 1) (hk : byteAt b 5 = 1) (hn : n ≠ 6) (s : State) :
    writeBin n b s = s.onPds fun p => { p with bins := upd p.bins n fun _ => ⟨true, .compile⟩ } := by
  simp [writeBin, h, hk, hn]

/-- BP is configured with its exit checkpoint. -/
theorem writeBin_purge {c : Checkpoint} (h : byteAt b 4 = 1) (hk : byteAt b 5 = 0) (hn : n = 6)
    (hc : c.val = byteAt b 6) (s : State) : writeBin n b s =
    s.onPds fun p => { p with bins := upd p.bins n fun _ => ⟨true, .plain⟩, purgeExit := c } := by
  simp [writeBin, h, hk, hn, indexAt_eq _ hc]

end

section
variable {q : Request} (s : State)

theorem loadTray_refused (h : 6 ≤ byteAt q.body 3 ∨ 2 ≤ byteAt q.body 4) :
    loadTray q s = s.replied q .refusedInvalid [] := by
  rcases h with h | h
  · simp only [loadTray, index?_eq_none h]; rfl
  · simp only [loadTray, yesNoAt_eq_none h]
    split
    next hv => cases hv
    next => rfl

theorem loadTray_done {t : Tray} {v : Bool} (ht : t.val = byteAt q.body 3) (hv : v.toNat = byteAt q.body 4) :
    loadTray q s = (s.onPds fun p => { p with trays := upd p.trays t fun _ => v }).replied q .done [] := by
  simp only [loadTray, index?_eq_some ht, yesNoAt_eq_some hv]; rfl

end

/-! ### SET TIMING (R24, R25) -/

/-- The first value out of range is named by its position (R24). -/
theorem Timing.fault_eq_some {t : Timing} {i : Nat} (hi : t.checks[i]? = some false)
    (hb : ∀ j < i, t.checks[j]? = some true) : t.fault = some (i + 1) := by
  obtain ⟨hlt, he⟩ := List.getElem?_eq_some_iff.1 hi
  have hx : t.checks.findIdx? (fun ok => !ok) = some i := by
    refine List.findIdx?_eq_some_iff_getElem.2 ⟨hlt, by simp [he], fun j hj => ?_⟩
    obtain ⟨_, hj⟩ := List.getElem?_eq_some_iff.1 (hb j hj)
    simp [hj]
  simp [Timing.fault, hx]

theorem Timing.fault_eq_none {t : Timing} (h : ∀ x ∈ t.checks, x = true) : t.fault = none := by
  have hx : t.checks.findIdx? (fun ok => !ok) = none := List.findIdx?_eq_none_iff.2 fun x hx => by simp [h x hx]
  simp [Timing.fault, hx]

/-- The still detector under a new interval (R25, R44). -/
theorem Monitor.newInterval_eq (interval : Nat) (m : Monitor) :
    m.newInterval interval =
      let posts := decide (m.still = .watching ∧ interval ≤ m.stillCount)
      { m with
        still := if posts then .still else m.still
        stillDue := if posts then m.stillDue + 1 else m.stillDue } := by
  by_cases h : m.still = .watching ∧ interval ≤ m.stillCount
  · simp [Monitor.newInterval, h]
  · simp [Monitor.newInterval, h]

/-- The state after new values have reached the mechanisms that run in SETUP (R25). -/
theorem applyTiming_eq (t : Timing) (s : State) :
    applyTiming t s =
      let posts := decide (s.ckm.still = .watching ∧ t.stillMs ≤ s.ckm.stillCount)
      { s with
        pds := { s.pds with timing := t }
        ckm := { s.ckm with
          partialCount := if t.tdiv = s.pds.timing.tdiv then s.ckm.partialCount else 0
          coverTicks := 0
          still := if posts then .still else s.ckm.still
          stillDue := if posts then s.ckm.stillDue + 1 else s.ckm.stillDue } } := by
  simp only [applyTiming, Monitor.newInterval_eq, State.onPds, State.onCkm, decide_eq_true_eq, ite_not]

section
variable {q : Request} {s : State}

theorem setTiming_refused {i : Nat} (hf : (timingAt q.body).fault = some i) :
    setTiming q s = s.replied q .refusedInvalid (num1 i) := by simp only [setTiming, hf]; rfl

theorem setTiming_equal (hf : (timingAt q.body).fault = none) (he : timingAt q.body = s.pds.timing) :
    setTiming q s = s.replied q .done [] := by simp only [setTiming, hf, if_pos he]; rfl

theorem setTiming_new (hf : (timingAt q.body).fault = none) (he : timingAt q.body ≠ s.pds.timing) :
    setTiming q s = (applyTiming (timingAt q.body) s).replied q .done [] := by
  simp only [setTiming, hf, if_neg he]; rfl

end

/-! ### START and STOP (R27 to R30) -/

theorem lowestOpen_none : lowestOpen 0 = none := by decide

/-- The lowest-numbered open cover is the open one below which every cover is shut (R40). -/
theorem lowestOpen_eq_some {l : CoverLines} {c : Cover} (hc : l.getLsbD c.val = true)
    (hb : ∀ d : Cover, d < c → l.getLsbD d.val = false) : lowestOpen l = some c := by
  refine List.find?_eq_some_iff_getElem.2 ⟨hc, c.val, by simp, by simp, fun j hj => ?_⟩
  have hlt : j < 6 := by omega
  simpa using hb ⟨j, hlt⟩ hj

section
variable {q : Request} {s : State}

theorem start_invalid {f : StartFault} (hf : startFault s.pds = some f) :
    start q s = s.replied q .refusedInvalid (startFaultBytes f) := by simp only [start, hf]; rfl

theorem start_covered (hf : startFault s.pds = none) (hc : s.ckm.ckHeld ≠ 0) :
    start q s = s.replied q .refusedState (listed (fun c : Checkpoint => num1 c) (coveredList s.ckm.ckHeld)) := by
  simp only [start, hf, if_neg hc]; rfl

theorem start_clear (hf : startFault s.pds = none) (hc : s.ckm.ckHeld = 0) : start q s = carryOutStart q s := by
  simp only [start, hf, if_pos hc]

/-- The part in RUNNING and MOVING (R29). -/
def State.started (s : State) : State :=
  { s with pds := { s.pds with mode := .running }, stk := { s.stk with path := .moving } }

theorem carryOutStart_shut (h : s.ckm.cvHeld = 0) : carryOutStart q s = s.started.replied q .done [] := by
  simp only [carryOutStart, reply, onLi_ckm, onStk_ckm, onPds_ckm, h, lowestOpen_none]; rfl

theorem carryOutStart_open {c : Cover} (h : lowestOpen s.ckm.cvHeld = some c) :
    carryOutStart q s = raiseInterlock c (s.started.replied q .done []) := by
  simp only [carryOutStart, reply, onLi_ckm, onStk_ckm, onPds_ckm, h]; rfl

end

/-- No record is open when every class is CLEAR. -/
theorem openClasses_eq_nil (r : Recovery) : r.openClasses = [] ↔ ∀ c, r.get c = none := by
  have hall (c : IncClass) : c ∈ IncClass.all := by cases c <;> decide
  simp [Recovery.openClasses, List.filter_eq_nil_iff, hall]

/-- STOP finds nothing left: no sheet, no entry, no open incident (R30). -/
theorem stopAllowed_eq_true (s : State) :
    stopAllowed s = true ↔ s.stk.sheets = [] ∧ s.ogt.orq = [] ∧ s.ogt.ril = [] ∧ ∀ c, s.rcc.get c = none := by
  simp only [stopAllowed, Bool.and_eq_true, List.isEmpty_iff, openClasses_eq_nil, and_assoc]

/-- The E-port begins its frames whatever the FIFO holds. -/
theorem placeHalt_fifo (l : Link) (rest : List Frame) :
    Link.placeHalt { l with fifo := rest } = { l.placeHalt with fifo := rest } := by
  cases he : l.eTx with
  | none => simp [Link.placeHalt, startE_halt, he]
  | some x => simp [Link.placeHalt, startE_busy, he]

section
variable {q : Request} {s : State}

/-- The part in SETUP and HALTED with a HALT placed (R30). -/
def State.stopped (s : State) : State :=
  { s with pds := { s.pds with mode := .setup }, stk := { s.stk with path := .halted }, li := s.li.placeHalt }

theorem stopped_taken (s : State) (rest : List Frame) : (s.taken rest).stopped = s.stopped.taken rest := by
  simp only [State.stopped, State.taken, placeHalt_fifo]

theorem stop_setup (hm : s.pds.mode = .setup) : stop q s = s.replied q .refusedMode [] := if_pos hm

theorem stop_busy (hm : s.pds.mode = .running) (ha : ¬stopAllowed s = true) :
    stop q s = s.replied q .refusedBusy (stopBusyBytes s) := (if_neg (by simp [hm])).trans (if_neg ha)

theorem stop_done (hm : s.pds.mode = .running) (ha : stopAllowed s = true) :
    stop q s = s.stopped.replied q .done [] := (if_neg (by simp [hm])).trans (if_pos ha)

end

end Sys2Proof.Machine

namespace Sys2Proof.Proofs
open Sys2Proof.Machine

/-- Settles O13: the first failing field, or the route replaced. -/
theorem loadRoute : Obligations.LoadRoute := by
  unfold Obligations.LoadRoute
  intro s q rest h hq hn hc he h0
  have hl := requestLengthOk_loadRoute_fits hq hn hc he
  have hw := loads_eq_true hq h0
  refine ⟨event_inSetup_running h hw hl, fun hm field hf => ?_, fun hm hf n hr => ?_⟩
  · exact event_inSetup_setup h hw hl hm (loadRoute_refused _ hf) rfl
  · exact event_inSetup_setup h hw hl hm (loadRoute_done _ hf hr) rfl

/-- Settles O14: the route is judged before the step count; an entry unloaded already is written as it stands. -/
theorem unloadRoute : Obligations.UnloadRoute := by
  unfold Obligations.UnloadRoute
  intro s q rest h hq hn hc he h0
  have hl := requestLengthOk_loadRoute_fits hq hn hc he
  have hw := unloads_eq_true hq hn h0
  refine ⟨event_inSetup_running h hw hl, fun hm hr => ?_, fun hm hr hs => ?_, fun hm hs n hr => ?_⟩
  · exact event_inSetup_setup h hw hl hm (unloadRoute_routeAbsent _ hr) rfl
  · exact event_inSetup_setup h hw hl hm (unloadRoute_hasSteps _ hr hs) rfl
  · have hdone := event_inSetup_setup (u := setRoute n _ s) h hw hl hm (unloadRoute_done _ hs hr) rfl
    exact ⟨hdone, fun hloaded hsteps => by rw [setRoute_unloaded hloaded hsteps] at hdone; exact hdone⟩

/-- Settles O15: the bin, the configured byte, then kind and exit checkpoint of a bin that is to be configured. -/
theorem loadBin : Obligations.LoadBin := by
  unfold Obligations.LoadBin
  intro s q rest h hq hn
  have hl := requestLengthOk_of_row (c := .loadBin) (by simp [requestRows]) hq hn
  have hw := decide_eq_true hq
  refine ⟨event_inSetup_running h hw hl, fun hm => ⟨fun hr => ?_, fun n hb => ?_⟩⟩
  · exact event_inSetup_setup h hw hl hm (loadBin_absent _ hr) rfl
  have refused {field : Nat} (hf : binFieldFault s n q.body = some field) :
      exec .loadBin s = .next (s.answered q .refusedInvalid (naming field) rest) :=
    event_inSetup_setup h hw hl hm (loadBin_refused (s.taken rest) hb hf) rfl
  have written {f : PathDesc → PathDesc} (hf : binFieldFault s n q.body = none)
      (hp : ∀ u : State, writeBin n q.body u = u.onPds f) :
      exec .loadBin s = .next ((s.onPds f).answered q .done [] rest) :=
    event_inSetup_setup (u := s.onPds f) h hw hl hm
      ((loadBin_done (s.taken rest) hb hf).trans (by rw [hp]; rfl)) rfl
  refine ⟨fun h4 => refused (binFieldFault_flag h4),
    fun h4 => written (binFieldFault_unconfigured h4) (writeBin_unconfigured h4),
    fun h4 => ⟨fun hk => ?_, fun hk h6 => ?_, fun hk _ ho => ?_, fun hk h6 hc => ?_, fun hk c h6 hc => ?_,
      fun hk h6 => ?_, fun hk h6 ho => ?_⟩⟩
  · exact refused (binFieldFault_kind h4 (.inl hk))
  · exact refused (binFieldFault_kind h4 (.inr ⟨hk, .inl h6⟩))
  · exact refused (binFieldFault_kind h4 (.inr ⟨hk, .inr ho⟩))
  · exact refused (binFieldFault_exit h4 hk h6 hc)
  · exact written (binFieldFault_plain h4 hk fun _ => hc ▸ c.isLt) (writeBin_purge h4 hk h6 hc)
  · exact written (binFieldFault_plain h4 hk fun he => absurd he h6) (writeBin_plain h4 hk h6)
  · exact written (binFieldFault_compile h4 hk h6 ho) (writeBin_compile h4 hk h6)

/-- Settles O16: the reset values, then the request. -/
theorem loadTray : Obligations.LoadTray := by
  unfold Obligations.LoadTray
  refine ⟨fun t => by simp [State.reset, PathDesc.reset], fun s => rfl, fun s q rest h hq hn => ?_⟩
  have hl := requestLengthOk_of_row (c := .loadTray) (by simp [requestRows]) hq hn
  have hw := decide_eq_true hq
  refine ⟨event_inSetup_running h hw hl, fun hm hf => ?_, fun hm t v ht hv => ?_⟩
  · exact event_inSetup_setup h hw hl hm (loadTray_refused _ hf) rfl
  · exact event_inSetup_setup h hw hl hm (loadTray_done _ ht hv) rfl

/-- Settles O17: a value out of range, equal values, and new values. -/
theorem setTiming : Obligations.SetTiming := by
  unfold Obligations.SetTiming
  intro s q rest h hq hn t
  have hl := requestLengthOk_of_row (c := .setTiming) (by simp [requestRows]) hq hn
  have hw := decide_eq_true hq
  refine ⟨event_inSetup_running h hw hl, fun hm i hi hb => ?_, fun hm hr he => ?_, fun hm hr he => ?_⟩
  · exact event_inSetup_setup h hw hl hm (setTiming_refused (Timing.fault_eq_some hi hb)) rfl
  · exact event_inSetup_setup h hw hl hm (setTiming_equal (Timing.fault_eq_none hr) he) rfl
  · have hdone := setTiming_new (s := s.taken rest) (Timing.fault_eq_none hr) he
    rw [applyTiming_eq] at hdone
    exact event_inSetup_setup h hw hl hm hdone rfl

/-- Settles O18: the refusals leave the gate nothing to see; a START carried out is watched, with or without an open
cover. -/
theorem start : Obligations.Start := by
  unfold Obligations.Start
  intro s q rest h hq hn
  have hl := requestLengthOk_of_row (c := .start) (by simp [requestRows]) hq hn
  have hw := decide_eq_true hq
  refine ⟨event_inSetup_running h hw hl, fun hm => ⟨fun f hf => ?_, fun hf hc => ?_, fun hf hc => ?_⟩⟩
  · exact event_inSetup_setup h hw hl hm (start_invalid (s := s.taken rest) hf) rfl
  · exact event_inSetup_setup h hw hl hm (start_covered (s := s.taken rest) hf hc) rfl
  have hrun : exec .start s = .next (watchGate s (carryOutStart q (s.taken rest))) :=
    (onRequest_taken (inSetup Machine.start) h hq hl).trans (by
      rw [inSetup_setup (s := s.taken rest) _ _ hm, start_clear (s := s.taken rest) hf hc])
  refine ⟨fun hcv => hrun.trans ?_, fun c hopen hshut => hrun.trans ?_⟩
  · rw [carryOutStart_shut (s := s.taken rest) hcv]; rfl
  · rw [carryOutStart_open (s := s.taken rest) (lowestOpen_eq_some hopen hshut)]; rfl

/-- Settles O19: the refusals, and a gate without entries, which has nothing to watch. -/
theorem stop : Obligations.Stop := by
  unfold Obligations.Stop
  intro s q rest h hq hn emptyAndClear
  have hl := requestLengthOk_of_row (c := .stop) (by simp [requestRows]) hq hn
  have hw := decide_eq_true hq
  refine ⟨fun hm => ?_, fun hm hb => ?_, fun hm he => ?_⟩
  · exact event_answered h hw hl (stop_setup (s := s.taken rest) hm) rfl
  · exact event_answered h hw hl (stop_busy (s := s.taken rest) hm (mt (stopAllowed_eq_true _).1 hb)) rfl
  · have hdone := stop_done (q := q) (s := s.taken rest) hm ((stopAllowed_eq_true _).2 he)
    rw [stopped_taken] at hdone
    obtain ⟨_, horq, hril, _⟩ := he
    have hquiet := watchGate_emptyGate s (s := s.stopped.answered q .done [] rest) horq hril rfl
    exact (onRequest_taken Machine.stop h hq hl).trans (congrArg Host.Outcome.next ((congrArg _ hdone).trans hquiet))

end Sys2Proof.Proofs
end

section
/-!
The Checkpoint Monitor (03_checkpoint_sensing_and_transport_count.md): the debounce, the wall tick, the transport pulses and
the deadlines a count advance lists.
-/
namespace Sys2Proof.Machine

/-! ## The debounce (R35, R36, R39) -/

section
variable {n : Nat} (held : BitVec n) (last : Option (BitVec n)) (new : BitVec n) (c : Fin n)

/-- A line's new level is accepted when it differs from the held level and equals the last sample (R35). -/
theorem accepted_getLsbD : (accepted held last new).getLsbD c.val =
    decide (new.getLsbD c.val ≠ held.getLsbD c.val ∧
      last.map (fun l => l.getLsbD c.val) = some (new.getLsbD c.val)) := by
  cases last with
  | none => simp [accepted]
  | some l =>
    simp only [accepted, BitVec.getLsbD_and, BitVec.getLsbD_not, BitVec.getLsbD_xor, c.isLt, decide_true, Bool.true_and,
      Option.map_some, Option.some.injEq]
    cases new.getLsbD c.val <;> cases held.getLsbD c.val <;> cases l.getLsbD c.val <;> decide

/-- The held level follows the lines that are accepted, and no others (R35). -/
theorem held_getLsbD : (held ^^^ accepted held last new).getLsbD c.val =
    if (accepted held last new).getLsbD c.val then new.getLsbD c.val else held.getLsbD c.val := by
  rw [BitVec.getLsbD_xor]
  split
  next ha =>
    have hne : new.getLsbD c.val ≠ held.getLsbD c.val :=
      (of_decide_eq_true ((accepted_getLsbD held last new c).symm.trans ha)).1
    rw [ha, Bool.xor_true]
    exact (Bool.eq_not_of_ne hne).symm
  next ha => rw [Bool.eq_false_of_not_eq_true ha, Bool.xor_false]

end

/-- The edges of an instant are those of its accepted lines, one group (R36). -/
theorem edgesOf_eq (acc new : CheckpointLines) (now : Count) (p : Checkpoint → Bool)
    (hp : ∀ c : Checkpoint, acc.getLsbD c.val = p c) :
    edgesOf acc new now = if (List.finRange 24).filter p = [] then []
      else [((List.finRange 24).filter p).map fun c => ⟨c, if new.getLsbD c.val then .lead else .trail, now⟩] := by
  obtain rfl : (fun c : Checkpoint => acc.getLsbD c.val) = p := funext hp
  unfold edgesOf
  split
  next h => rw [if_pos h]
  next h => rw [if_neg h]

/-- The gate does not watch the monitor. -/
theorem gateView_onCkm (f : Monitor → Monitor) (s : State) : gateView s = gateView (s.onCkm f) := rfl

/-! ## The wall tick (R38, R44, R46) -/

/-- The still detector counts while it watches, and posts path still when its count meets the interval (R44). -/
theorem stillTick_eq (interval : Nat) (m : Monitor) :
    let posts := decide (m.still = .watching ∧ m.stillCount + 1 = interval)
    m.stillTick interval = { m with
      still := if posts then .still else m.still
      stillCount := if m.still = .watching then m.stillCount + 1 else m.stillCount
      stillDue := if posts then m.stillDue + 1 else m.stillDue } := by
  cases hs : m.still with
  | still => simp only [Monitor.stillTick, hs]; cases m; cases hs; rfl
  | watching =>
    by_cases hi : m.stillCount + 1 = interval
    · simp [Monitor.stillTick, hs, hi]
    · simp only [Monitor.stillTick, hs, hi]; cases m; cases hs; rfl

theorem coverTick_counts {period : Nat} {m : Monitor} (h : m.coverTicks + 1 < period) (lines : CoverLines) :
    m.coverTick period lines = { m with coverTicks := m.coverTicks + 1 } := if_neg (Nat.not_le.2 h)

theorem coverTick_samples {period : Nat} {m : Monitor} (h : period ≤ m.coverTicks + 1) (lines : CoverLines) :
    m.coverTick period lines = { m.sampleCovers lines with coverTicks := 0 } := if_pos h

/-- The cover events of an instant are those of its accepted lines (R39). -/
theorem coverEventsOf_eq (acc new : CoverLines) (p : Cover → Bool) (hp : ∀ c : Cover, acc.getLsbD c.val = p c) :
    coverEventsOf acc new = ((List.finRange 6).filter p).map fun c => ⟨c, new.getLsbD c.val⟩ := by
  obtain rfl : (fun c : Cover => acc.getLsbD c.val) = p := funext hp
  rfl

/-- The gate sees nothing of a wall tick: a bin that counts down is as full as before. -/
theorem gateView_wallTick (lines : CoverLines) (s : State) : gateView s = gateView (wallTick lines s) := by
  have hb : (s.dlu.bins.map fun b : BinRec => { b with timer := tickTimer b.timer }).toList.map (·.full) =
      s.dlu.bins.toList.map (·.full) := by
    rw [Vector.toList_map, List.map_map]; rfl
  simp only [gateView, wallTick, State.onRcc, State.onDlu, State.onCkm, hb]

/-! ## Transport pulses and deadlines (R41, R42, R44, R61) -/

/-- A TP edge, by whether it fills the divider. -/
theorem tpEdge_eq (tdiv : Nat) (m : Monitor) :
    let full := 2 ^ tdiv ≤ m.partialCount + 1
    m.tpEdge tdiv = { m with
      stillCount := 0
      still := .watching
      partialCount := if full then 0 else m.partialCount + 1
      tc := if full then m.tc + 1 else m.tc
      advances := if full then m.advances ++ [m.tc + 1] else m.advances } := by
  by_cases hf : 2 ^ tdiv ≤ m.partialCount + 1
  · simp [Monitor.tpEdge, hf, Nat.not_lt.2 hf]
  · simp [Monitor.tpEdge, hf, Nat.not_le.1 hf]

theorem countAdvance_none {s : State} (h : s.ckm.advances = []) : countAdvance s = s := by
  simp only [countAdvance, h]

theorem countAdvance_some {s : State} {t : Count} {rest : List Count} (h : s.ckm.advances = t :: rest) :
    countAdvance s = { s with
      ckm := { s.ckm with advances := rest }
      stk := { s.stk with due := s.stk.due ++ s.stk.sheets.flatMap (expiriesOf s.pds s.stk.path t) } } := by
  simp only [countAdvance, h]; rfl

section
variable {p : PathDesc} {now : Count} {r : Sheet}

theorem expiriesOf_admitted (h : r.state = .admitted) :
    expiriesOf p .moving now r = leadExpiries p.routes[r.snap.route] r now := by simp only [expiriesOf, h]

theorem expiriesOf_moving (h : r.state = .moving) : expiriesOf p .moving now r =
    leadExpiries p.routes[r.snap.route] r now ++ trailExpiries p.routes[r.snap.route] r now := by
  simp only [expiriesOf, h]

theorem expiriesOf_runout (h : r.state = .runout) : expiriesOf p .runningOut now r =
    runoutExpiries p.routes[r.snap.route] p.timing.runoutLimit r now ++ trailExpiries p.routes[r.snap.route] r now := by
  simp only [expiriesOf, h]

/-- No deadline of a sheet at rest is in play (R61). -/
theorem expiriesOf_atRest (h : r.state = .settling ∨ r.state = .stranded) (path : PathState) :
    expiriesOf p path now r = [] := by
  rcases h with h | h <;> cases path <;> simp only [expiriesOf, h]

/-- No deadline is in play while the path halts or stands (R61). -/
theorem expiriesOf_halt {path : PathState} (h : path = .halting ∨ path = .halted) : expiriesOf p path now r = [] := by
  rcases h with rfl | rfl <;> rfl

variable {rt : Route} {limit : Nat}

/-- A sheet whose course is complete has no run-out lead deadline (R73). -/
theorem runoutExpiries_complete (h : r.next = .step rt.steps.length ∨ r.next = .purgeDone) :
    runoutExpiries rt limit r now = [] := by
  unfold runoutExpiries
  split
  · exact if_neg fun ⟨hc, hd, _⟩ => h.elim (of_decide_eq_false hc) hd
  · rfl

theorem runoutExpiries_running {x : Count} (hc : r.next ≠ .step rt.steps.length) (hd : r.next ≠ .purgeDone)
    (hx : r.runoutStamp = some x) :
    runoutExpiries rt limit r now = if expiresAt x now limit then [.runout r.tag x] else [] := by
  simp [runoutExpiries, routeComplete, hc, hd, hx]

end

end Sys2Proof.Machine

namespace Sys2Proof.Proofs
open Sys2Proof.Machine

/-- Settles O42: the lines accepted are those the statement names, and the gate watches no line. -/
theorem checkpointDebounce : Obligations.CheckpointDebounce := by
  unfold Obligations.CheckpointDebounce
  intro s new hp m accepts
  have hacc : ∀ c : Checkpoint, (accepted m.ckHeld m.ckLast new).getLsbD c.val = accepts c :=
    accepted_getLsbD m.ckHeld m.ckLast new
  refine ⟨m.ckHeld ^^^ accepted m.ckHeld m.ckLast new, ?_, fun c => ?_⟩
  · rw [← edgesOf_eq _ new m.tc accepts hacc]
    exact event_same (checkpointSample new) hp (gateView_onCkm _ s)
  · rw [held_getLsbD, hacc]

/-- Settles O43: the still detector, then the cover sampler by its period, then the timers. -/
theorem wallTick : Obligations.WallTick := by
  unfold Obligations.WallTick
  intro s new hp m posts accepts down ticked
  have hrun : exec (.wallTick new) s = .next (Machine.wallTick new s) := event_same _ hp (gateView_wallTick new s)
  have hstill := stillTick_eq s.pds.timing.stillMs m
  have hticks : (m.stillTick s.pds.timing.stillMs).coverTicks = m.coverTicks := by rw [hstill]
  refine ⟨fun h => hrun.trans ?_, fun h => ⟨m.cvHeld ^^^ accepted m.cvHeld m.cvLast new, hrun.trans ?_, fun c => ?_⟩⟩
  · have hcover := coverTick_counts (m := m.stillTick s.pds.timing.stillMs) (hticks ▸ h) new
    simp only [Machine.wallTick, State.onCkm, State.onDlu, State.onRcc]
    rw [hcover, hstill]; rfl
  · have hcover := coverTick_samples (m := m.stillTick s.pds.timing.stillMs) (hticks ▸ h) new
    simp only [Machine.wallTick, State.onCkm, State.onDlu, State.onRcc]
    rw [hcover, hstill, ← coverEventsOf_eq _ new accepts (accepted_getLsbD m.cvHeld m.cvLast new)]; rfl
  · rw [held_getLsbD, accepted_getLsbD]

/-- Settles O44: the divider, the count advance, and the deadlines by Path State and sheet state. -/
theorem transportPulses : Obligations.TransportPulses := by
  unfold Obligations.TransportPulses
  refine ⟨fun s hp => ?_, fun s hp => ⟨fun h => ?_, fun t rest h => ?_⟩, fun p now r => ?_⟩
  · have hrun : exec .tpEdge s = .next (s.onCkm (Monitor.tpEdge s.pds.timing.tdiv)) :=
      event_same (fun s => s.onCkm (Monitor.tpEdge s.pds.timing.tdiv)) hp rfl
    rw [hrun, State.onCkm, tpEdge_eq]
  · exact event_unchanged countAdvance (countAdvance_none h)
  · exact (event_same countAdvance hp (by rw [countAdvance_some h]; rfl)).trans (by rw [countAdvance_some h])
  · intro rt expires trails leads
    have hleads : leadExpiries rt r now = leads := by
      cases hn : r.next with
      | step i => simp only [leadExpiries, leads, hn]; rfl
      | purgeExit => simp only [leadExpiries, leads, hn]
      | purgeDone => simp only [leadExpiries, leads, hn]
    have htrails : trailExpiries rt r now = trails := rfl
    refine ⟨fun h => (expiriesOf_admitted h).trans hleads,
      fun h => (expiriesOf_moving h).trans (congrArg₂ _ hleads htrails), fun h hc => ?_, fun x h hc hd hx => ?_,
      expiriesOf_atRest, expiriesOf_halt (.inl rfl), expiriesOf_halt (.inr rfl)⟩
    · rw [expiriesOf_runout h, runoutExpiries_complete hc]; rfl
    · rw [expiriesOf_runout h, runoutExpiries_running hc hd hx]; rfl

end Sys2Proof.Proofs
end

section
/-!
Path still and the covers (R39, R44, R56, R69, R155, R156), with the JAM's ASSESS, CLEARANCE and REBUILD, which the report of
HALTED leads to (R154, R165 to R168, R180, R181).
-/
namespace Sys2Proof.Machine

/-! ## Records and stranded sheets -/

theorem activeIn_iff (r : Recovery) (c : IncClass) (p : Phase) :
    r.activeIn c p = true ↔ ∃ i, r.get c = some i ∧ i.status = .active ∧ i.phase = p := by
  unfold Recovery.activeIn
  cases r.get c <;> simp

theorem setPhase_jam {s : State} {i : Incident} (h : s.rcc.jam = some i) (p : Phase) :
    setPhase .jam p s = { s with rcc := { s.rcc with jam := some { i with phase := p } } } := by
  simp only [setPhase, onIncident, State.onRcc, Recovery.get, Recovery.set, h, Option.map_some]

theorem setPhase_interlock {s : State} {i : Incident} (h : s.rcc.interlock = some i) (p : Phase) :
    setPhase .interlock p s = { s with rcc := { s.rcc with interlock := some { i with phase := p } } } := by
  simp only [setPhase, onIncident, State.onRcc, Recovery.get, Recovery.set, h, Option.map_some]

/-- The sheets a halt strands (R56). -/
theorem inTransport_iff (r : Sheet) :
    r.inTransport = true ↔ r.state = .admitted ∨ r.state = .moving ∨ r.state = .runout := by
  cases h : r.state <;> simp [Sheet.inTransport, h]

theorem any_inTransport_iff (l : List Sheet) :
    l.any Sheet.inTransport = true ↔ ∃ r ∈ l, r.state = .admitted ∨ r.state = .moving ∨ r.state = .runout := by
  simp only [List.any_eq_true, inTransport_iff]

theorem strand_eq (r : Sheet) :
    r.strand = if r.state = .admitted ∨ r.state = .moving ∨ r.state = .runout then
      { r with state := .stranded, runoutStamp := none } else r := if_congr (inTransport_iff r) rfl rfl

/-! ## Path still (R44, R55, R56) -/

theorem pathStill_notDue {s : State} (h : s.ckm.stillDue = 0) : pathStill s = s := if_neg (by omega)

/-- A path still that is due is taken; in HALTING alone it completes a halt. -/
theorem pathStill_due {s : State} (h : 0 < s.ckm.stillDue) :
    pathStill s = if s.stk.path = .halting then
        completeHalt { s with ckm := { s.ckm with stillDue := s.ckm.stillDue - 1 } }
      else { s with ckm := { s.ckm with stillDue := s.ckm.stillDue - 1 } } := if_pos h

section
variable {s u : State}
  (hu : watchGate s { s with stk := { s.stk with path := .halted, sheets := s.stk.sheets.map Sheet.strand } } = u)
include hu

/-- The completion of a halt, by the state `u` in which the path has halted and the gate has judged (R56). -/
theorem completeHalt_eq : completeHalt s =
    haltedReport (if s.stk.sheets.any Sheet.inTransport && s.rcc.jam.isNone then raiseJam .stopStrand none none none u
      else u) := by
  have hjam : u.rcc.jam = s.rcc.jam := by rw [← hu]; exact (watchGate_watched _ _).recJam
  have hw : watched (State.onStk fun k => { k with path := .halted, sheets := k.sheets.map Sheet.strand }) s = u := hu
  simp only [completeHalt, hw, hjam]

theorem completeHalt_raises (hs : s.stk.sheets.any Sheet.inTransport = true) (hj : s.rcc.jam = none) :
    completeHalt s = haltedReport (raiseJam .stopStrand none none none u) := by
  rw [completeHalt_eq hu, hs, hj]; rfl

theorem completeHalt_quiet (h : s.stk.sheets.any Sheet.inTransport = false ∨ s.rcc.jam ≠ none) :
    completeHalt s = haltedReport u := by
  have hc : (s.stk.sheets.any Sheet.inTransport && s.rcc.jam.isNone) = false := by
    rcases h with h | h
    · rw [h, Bool.false_and]
    · rw [Option.isNone_eq_false_iff.2 (Option.isSome_iff_ne_none.2 h), Bool.and_false]
  rw [completeHalt_eq hu, hc]; rfl

end

/-! ## HALTED is reported (R154, R164, R179) -/

section
variable {s : State}

theorem haltedReport_stop (h : s.rcc.activeIn .jam .stop = true) : haltedReport s = enterAssess s := if_pos h

theorem haltedReport_runout {i : Incident} (hj : s.rcc.jam = some i) (ha : i.status = .active) (hp : i.phase = .runout)
    (hd : i.runoutDone = true) : haltedReport s = enterRebuild s := by
  simp [haltedReport, Recovery.activeIn, Recovery.get, hj, ha, hp, hd]

theorem haltedReport_quiet (hs : s.rcc.activeIn .jam .stop = false)
    (h : s.rcc.activeIn .jam .runout = false ∨ ∃ i, s.rcc.jam = some i ∧ i.runoutDone = false) : haltedReport s = s := by
  unfold haltedReport
  rw [if_neg (by rw [hs]; decide), if_neg]
  rcases h with h | ⟨i, hi, hd⟩
  · simp [h]
  · simp [hi, hd]

end

/-! ## ASSESS and CLEARANCE (R165 to R168, R170) -/

theorem sidesComplete_eq (rt : Route) (r : Sheet) :
    sidesComplete rt r = decide (r.sides = .both ∨ r.sides = .front ∧ rt.duplex = false) := by
  cases h : r.sides <;> cases hd : rt.duplex <;> simp [sidesComplete, h, hd]

/-- The disposition ASSESS leaves: MANUAL for a complete route or a named sheet, else the one already given, else the one of
the zone, where a purge past the divert-last step is MANUAL (R165, R166). -/
theorem assessedDisposition_eq (rt : Route) (named : List Tag) (r : Sheet) :
    assessedDisposition rt named r =
      if routeComplete rt r ∨ named.contains r.tag then .manual
      else if r.disposition = none ∧ zoneDisposition rt r = .purge ∧ pastDivert rt r = true then .manual
      else r.disposition.getD (zoneDisposition rt r) := by
  unfold assessedDisposition
  by_cases hm : routeComplete rt r ∨ named.contains r.tag
  · rw [if_pos hm]
    rcases hm with h | h <;> simp only [h, if_true, ite_self]
  · obtain ⟨hc, hn⟩ := not_or.1 hm
    simp only [if_neg hm, if_neg hc, if_neg hn]
    cases r.disposition <;> simp

/-- The JAM REPORT of a record (R167). -/
def jamReportOf (i : Incident) (s : State) : Notice :=
  .jamReport i.first i.count i.details i.setPurge
    ((s.stk.sheets.filter fun r => decide (r.state = .stranded)).map (strandedReport s))
    ((s.stk.sheets.filter fun r => decide (r.state = .settling) && r.suspect).map (suspectReport s))

/-- The JAM in CLEARANCE, with its report and its first CLEARANCE STATUS posted (R167, R168). -/
def State.reported (i : Incident) (s : State) : State :=
  { s with
    rcc := { s.rcc with jam := some { i with phase := .clearance } }
    li := Link.post (.clearanceStatus (blockingList s)) (Link.post (jamReportOf i s) s.li) }

theorem enterClearance_postJamReport {s : State} {i : Incident} (h : s.rcc.jam = some i) :
    enterClearance (postJamReport s) = s.reported i := by
  have hp : postJamReport s = post (jamReportOf i s) s := by simp only [postJamReport, h]; rfl
  rw [hp, enterClearance, setPhase_jam (i := i) (s := post (jamReportOf i s) s) h]
  rfl

theorem enterAssess_eq {s : State} {i : Incident} (h : s.rcc.jam = some i) :
    enterAssess s = State.reported { i with phase := .assess } { s with
      rcc := { s.rcc with jam := some { i with phase := .assess } }
      stk := { s.stk with sheets := s.stk.sheets.map fun r =>
        if r.state = .stranded then
          { r with disposition := some (assessedDisposition (s.routeOf r) (i.details.filterMap (·.tag)) r) }
        else r } } := by
  unfold enterAssess
  rw [setPhase_jam h]
  exact enterClearance_postJamReport rfl

/-! ## REBUILD (R180, R181) -/

theorem allStages_eq : allStages = [(0, .b), (0, .a), (1, .b), (1, .a), (2, .b), (2, .a), (3, .b), (3, .a), (4, .b),
    (4, .a), (5, .b), (5, .a)] := by decide

theorem postSuspectRequests_eq (taken : List (Bin × Tag × Seq)) (s : State) :
    postSuspectRequests taken s = [(0 : Bin), 1, 2, 3, 4, 5].foldl (fun u b =>
      let sheets := (taken.filter fun z => decide (z.1 = b)).map (·.2)
      if sheets = [] then u else post (.removeRequest .suspect b sheets none) u) s := by
  have hbins : List.finRange 6 = [(0 : Bin), 1, 2, 3, 4, 5] := by decide
  unfold postSuspectRequests
  rw [hbins]
  congr 1
  funext u b
  dsimp only
  split
  next h => rw [if_pos h]
  next h => rw [if_neg h]

theorem setPurge_eq_true {s : State} (h : ∃ j, s.rcc.jam = some j ∧ j.setPurge = true) : setPurge s = true := by
  obtain ⟨j, hj, hp⟩ := h
  simp [setPurge, hj, hp]

theorem setPurge_eq_false {s : State} (h : ∀ j, s.rcc.jam = some j → j.setPurge = false) : setPurge s = false := by
  cases hj : s.rcc.jam with
  | none => simp [setPurge, hj]
  | some j => simp [setPurge, hj, h j hj]

theorem rebuildWork_eq {s : State} {i : Incident} (h : s.rcc.jam = some i) :
    let x := removeSuspects allStages { s with rcc := { s.rcc with jam := some { i with phase := .rebuild } } }
    let t := postSuspectRequests x.2 x.1
    rebuildWork s = relockReissues (if setPurge t then purgeCompile t else t) := by
  unfold rebuildWork
  rw [setPhase_jam h]

theorem purgeCompile_some {s : State} {b : Bin} (h : compileBin s = some b) : purgeCompile s =
    post (.removeRequest .compileTray b (purgeQueue s).2 (purgedSet s)) (purgeSet (purgeQueue s).1) := by
  simp only [purgeCompile, h]

/-- Without a compile bin there is no queue to purge. -/
theorem purgeCompile_none {s : State} (h : compileBin s = none) : purgeCompile s = purgeSet s := by
  simp only [purgeCompile, purgeQueue, h]

theorem relockLine_released {s : State} {q : Seq} {k : PageKey} {i : Nat} {l : Line} (h : s.pgd.lookup k = some (i, l))
    (hl : l.state = .released) : relockLine q k s = { s with
      pgd := s.pgd.putWay i { l with state := .locked, cls := effectiveClass s k, owner := some q } } := by
  simp only [relockLine, h, hl, if_true, Line.enter, reduceCtorEq, if_false]; rfl

theorem relockLine_other {s : State} {k : PageKey} (q : Seq) (h : s.pgd.stateOf k ≠ some .released) :
    relockLine q k s = s := by
  unfold relockLine
  split
  next i l hl => exact if_neg fun he => h (by simp [Directory.stateOf, hl, he])
  next => rfl

/-! ## Covers (R39, R69, R155, R156) -/

/-- The first entry of a kind is found behind the others. -/
theorem find?_behind {α : Type} {p : α → Bool} {before : List α} {y : α} (after : List α)
    (hb : ∀ x ∈ before, p x = false) (hy : p y = true) : (before ++ y :: after).find? p = some y :=
  List.find?_eq_some_iff_append.2 ⟨hy, before, after, rfl, fun x hx => by simp [hb x hx]⟩

/-- It is the one that is erased. -/
theorem eraseP_behind {α : Type} {p : α → Bool} {before : List α} {y : α} (after : List α)
    (hb : ∀ x ∈ before, p x = false) (hy : p y = true) : (before ++ y :: after).eraseP p = before ++ after := by
  rw [List.eraseP_append_right _ fun x hx => by simp [hb x hx], List.eraseP_cons_of_pos hy]

section
variable {s : State} {c : Cover} {opened : Bool} {before after : List CoverEvent}
  (he : s.ckm.coverEvents = before ++ ⟨c, opened⟩ :: after) (hb : ∀ x ∈ before, x.cover ≠ c)
include he hb

theorem nextCoverEvent_eq : nextCoverEvent s c = some ⟨c, opened⟩ := by
  unfold nextCoverEvent
  rw [he]
  exact find?_behind after (fun x hx => decide_eq_false (hb x hx)) (decide_eq_true rfl)

theorem popCoverEvent_eq :
    popCoverEvent c s = { s with ckm := { s.ckm with coverEvents := before ++ after } } := by
  have hpop : s.ckm.coverEvents.eraseP (fun e => decide (e.cover = c)) = before ++ after := by
    rw [he]
    exact eraseP_behind after (fun x hx => decide_eq_false (hb x hx)) (decide_eq_true rfl)
  simp only [popCoverEvent, State.onCkm, hpop]

end

/-- The Sheet Tracker takes a cover open: a sheet in the path is stranded (R69). -/
theorem strandOpen_strands {s : State}
    (h : ∃ r ∈ s.stk.sheets, r.state = .admitted ∨ r.state = .moving ∨ r.state = .runout) :
    strandOpen s = raiseJam .stopStrand none none none s := if_pos ((any_inTransport_iff _).2 h)

theorem strandOpen_empty {s : State}
    (h : ¬∃ r ∈ s.stk.sheets, r.state = .admitted ∨ r.state = .moving ∨ r.state = .runout) :
    strandOpen s = s := if_neg (mt (any_inTransport_iff _).1 h)

theorem takeShut_last {s : State} {i : Incident} (hi : s.rcc.interlock = some i) (ha : i.status = .active)
    (hp : i.phase = .opened) (hc : s.ckm.cvHeld = 0) : takeShut s = { s with
      rcc := { s.rcc with
        interlock := some { i with phase := .shutWait }, coverTimer := some s.pds.timing.coverSettleMs } } := by
  have h : s.rcc.activeIn .interlock .opened = true := (activeIn_iff _ _ _).2 ⟨i, hi, ha, hp⟩
  unfold takeShut
  rw [if_pos ⟨h, hc⟩, setPhase_interlock hi]
  rfl

theorem takeShut_other {s : State} (h : s.rcc.activeIn .interlock .opened = false ∨ s.ckm.cvHeld ≠ 0) :
    takeShut s = s := if_neg fun ⟨ho, hc⟩ => h.elim (fun hf => by simp [hf] at ho) fun hn => hn hc

/-- The gate watches whether an INTERLOCK is open, not its phase or timer. -/
theorem gateView_interlock {s : State} {i j : Incident} (h : s.rcc.interlock = some i) (timer : Option Nat) :
    gateView s = gateView { s with rcc := { s.rcc with interlock := some j, coverTimer := timer } } := by
  simp only [gateView, h, Option.isSome_some]

end Sys2Proof.Machine

namespace Sys2Proof.Proofs
open Sys2Proof.Machine

/-- Settles O45: the halt's completion, the report of HALTED, and the work it leads to, rule by rule. -/
theorem pathStill : Obligations.PathStill := by
  unfold Obligations.PathStill
  refine ⟨?still, ?halted, ?assess, ?rebuild, fun s => rfl,
    fun s q k => ⟨fun i l => relockLine_released, relockLine_other q⟩⟩
  case still =>
    intro s hp t
    have hrun : exec .pathStill s = .next (watchGate s (Machine.pathStill s)) := event_awake _ hp
    refine ⟨fun h => ?_, fun h hh => ?_, fun h hh => ?_⟩
    · exact event_unchanged Machine.pathStill (pathStill_notDue h)
    · rw [hrun, pathStill_due h, if_neg hh]
      exact congrArg Host.Outcome.next (watchGate_same rfl)
    · intro moving u
      have hu : watchGate t { t with stk := { t.stk with
          path := .halted, sheets := t.stk.sheets.map Sheet.strand } } = u := by rw [funext strand_eq]
      rw [hrun, pathStill_due h, if_pos hh]
      refine ⟨fun hm hj => ?_, fun hq => ?_⟩
      · rw [completeHalt_raises hu ((any_inTransport_iff _).2 hm) hj]
      · rw [completeHalt_quiet hu (hq.imp_left fun hn => Bool.eq_false_iff.2 fun ha => ?_)]
        obtain ⟨r, hr, hm⟩ := (any_inTransport_iff _).1 ha
        exact hn r hr hm
  case halted =>
    exact fun s => ⟨haltedReport_stop, fun i => haltedReport_runout, haltedReport_quiet⟩
  case assess =>
    intro s i hj named last complete byZone assessed t report cleared
    have hlast : ∀ r, lastZone (s.routeOf r) r = last r := by
      intro r
      match hn : r.next with
      | .step 0 => simp only [lastZone, last, hn]
      | .step (n + 1) => simp only [lastZone, last, hn]
      | .purgeExit => simp only [lastZone, last, hn]
      | .purgeDone => simp only [lastZone, last, hn]
    have hzone : ∀ r, zoneDisposition (s.routeOf r) r = byZone r := by
      intro r
      simp only [zoneDisposition, byZone, hlast, sidesComplete_eq]
      match last r with
      | none | some .blank | some .imaged | some .finished | some .finisher => rfl
    have hassessed : ∀ r, assessedDisposition (s.routeOf r) (i.details.filterMap (·.tag)) r = assessed r := by
      intro r
      simp only [assessedDisposition_eq, hzone, assessed, ite_or, routeComplete, decide_eq_true_eq]
      cases r.disposition <;> simp [named]
    refine ⟨?_, enterClearance_postJamReport hj⟩
    rw [enterAssess_eq hj]
    simp only [hassessed]
    rfl
  case rebuild =>
    refine ⟨fun s => rfl, fun s i hj => ?_, fun s b => purgeCompile_some, fun s => purgeCompile_none⟩
    intro x t
    have ht : postSuspectRequests x.2 x.1 = t := postSuspectRequests_eq x.2 x.1
    have hwork : rebuildWork s = relockReissues (if setPurge t then purgeCompile t else t) := by
      rw [rebuildWork_eq hj, allStages_eq, ← ht]
    exact ⟨fun h => by rw [hwork, setPurge_eq_true h]; rfl, fun h => by rw [hwork, setPurge_eq_false h]; rfl⟩

/-- Settles O46: the events of a cover in both orders, and the expiry of the cover-settle timer. -/
theorem covers : Obligations.Covers := by
  unfold Obligations.Covers
  refine ⟨fun s c before after opened hp he hb => ?_, fun s hp => ⟨fun ht ha => ?_, fun h => ?_⟩⟩
  · intro t strands halt u
    have hnext := nextCoverEvent_eq he hb
    have hpop : popCoverEvent c s = t := popCoverEvent_eq he hb
    refine ⟨?opens, ?shuts⟩
    case opens =>
      rintro rfl
      have hrun (first : Bool) : exec (.coverOpen c first) s = .next (watchGate s
          (if first then raiseInterlock c (strandOpen t) else strandOpen u)) := by
        refine (event_awake (coverOpen c first) hp).trans ?_
        rw [coverOpen, if_pos hnext, hpop]
      refine ⟨fun h => ?_, fun h => ?_, fun h => ?_, fun h => ?_⟩
      · rw [hrun, strandOpen_strands (s := t) h]; rfl
      · rw [hrun, strandOpen_empty (s := t) h]; rfl
      · rw [hrun, strandOpen_strands h]; rfl
      · rw [hrun, strandOpen_empty h]; rfl
    case shuts =>
      rintro rfl
      have hshut : coverShut c s = takeShut t := by rw [coverShut, if_pos hnext, hpop]
      refine ⟨fun i hi ha hop hc => ?_, fun h => ?_⟩
      · refine (event_awake (coverShut c) hp).trans ?_
        rw [hshut, takeShut_last (s := t) hi ha hop hc]
        exact congrArg Host.Outcome.next (watchGate_same (gateView_interlock hi _))
      · refine (event_awake (coverShut c) hp).trans ?_
        rw [hshut, takeShut_other (s := t) h]
        exact congrArg Host.Outcome.next (watchGate_same rfl)
  · refine (event_awake coverSettleExpiry hp).trans ?_
    rw [coverSettleExpiry, if_pos ⟨ht, ha⟩]
  · exact event_unchanged coverSettleExpiry
      (if_neg fun ⟨ht, ha⟩ => h.elim (fun hn => hn ht) fun hn => by simp [hn] at ha)

end Sys2Proof.Proofs
end

section
/-!
The edges the Sheet Tracker takes (R36, R37, R57): the match of a lead (R59, R60), the release of an entry and the exits of a
sheet (R64 to R66), and the JAM raised at a checkpoint (R58, R83).
-/
namespace Sys2Proof.Machine

/-! ## Taking an edge (R36, R37, R57) -/

theorem nextEdge_none {s : State} {c : Checkpoint} (h : NoEdgeNow s c) : nextEdge s c = none := by
  unfold nextEdge
  split
  next => rfl
  next now later he => exact List.find?_eq_none.2 fun x hx => by simpa using h now later he x hx

section
variable {s : State} {c : Checkpoint} {e : Edge} {before after : List Edge} {later : List (List Edge)}

section
variable (h : EdgeWaits s c e before after later)
include h

theorem nextEdge_waits : nextEdge s c = some e := by
  simp only [nextEdge, h.edges]
  exact find?_behind after (fun x hx => decide_eq_false (h.first x hx)) (decide_eq_true h.ck)

theorem popEdge_waits (covered : Bool) : popEdge c covered s = s.edgeTaken c covered before after later := by
  have hrest : (before ++ e :: after).eraseP (fun x => decide (x.ck = c)) = before ++ after :=
    eraseP_behind after (fun x hx => decide_eq_false (h.first x hx)) (decide_eq_true h.ck)
  have hpop : s.ckm.popEdge c =
      { s.ckm with edges := if before ++ after = [] then later else (before ++ after) :: later } := by
    simp only [Monitor.popEdge, h.edges, hrest]
    cases hl : before ++ after with
    | nil => rfl
    | cons x xs => rfl
  simp only [popEdge, State.onCkm, State.onStk, hpop]
  rfl

end

/-- The gate watches neither the edges that wait nor the Occupancy levels. -/
theorem gateView_edgeTaken (s : State) (c : Checkpoint) (covered : Bool) (before after : List Edge)
    (later : List (List Edge)) : gateView s = gateView (s.edgeTaken c covered before after later) := rfl

/-- A lead edge that waits is taken, and in HALTED that is all (R37, R57). -/
theorem exec_leadEdge_waits (h : EdgeWaits s c e before after later) (hd : e.dir = .lead) :
    let t := s.edgeTaken c true before after later
    exec (.leadEdge c) s = .next (watchGate s
      (if s.stk.path = .halted then t else matchLead s.stk.path.raisesFaults c e.stamp t)) := by
  refine (event_awake (leadEdge c) h.awake).trans ?_
  simp only [leadEdge, nextEdge_waits h, hd, if_true, popEdge_waits h]
  rfl

/-- A trail edge that waits is taken, and in HALTED that is all (R37, R57). -/
theorem exec_trailEdge_waits (h : EdgeWaits s c e before after later) (hd : e.dir = .trail) :
    let t := s.edgeTaken c false before after later
    exec (.trailEdge c) s = .next (watchGate s
      (if s.stk.path = .halted then t else takeTrail s.stk.path.raisesFaults c e.stamp t)) := by
  refine (event_awake (trailEdge c) h.awake).trans ?_
  simp only [trailEdge, nextEdge_waits h, hd, if_true, popEdge_waits h]
  rfl

end

/-- What is done where faults are raised, and only there, is not done in HALTING (R57). -/
theorem next_of_faults {x : Host.Outcome State Fault Refusal} {s t u : State} (hv : gateView s = gateView t)
    (hx : x = .next (watchGate s (if s.stk.path.raisesFaults then u else t))) :
    (RaisesFaults s → x = .next (watchGate s u)) ∧ (s.stk.path = .halting → x = .next t) := by
  refine ⟨fun h => ?_, fun h => ?_⟩
  · have hf : s.stk.path.raisesFaults = true := by rcases h with h | h <;> rw [h] <;> rfl
    rw [hx, hf, if_pos rfl]
  · rw [hx, h, if_neg (by decide), watchGate_same hv]

theorem RaisesFaults.not_halted {s : State} (h : RaisesFaults s) : s.stk.path ≠ .halted := by
  rcases h with h | h <;> rw [h] <;> decide

/-! ## A JAM raised at a checkpoint (R58, R83) -/

theorem exits_contains (rt : Route) (c : Checkpoint) :
    rt.exits.contains c = rt.steps.any fun y => y.isExit && decide (y.ck = c) := by
  rw [Bool.eq_iff_iff]
  simp [Route.exits, and_assoc]

theorem markStage_pds (b : Bin) (st : Stage) (s : State) : (markStage b st s).pds = s.pds := by
  unfold markStage
  split
  · exact (closed_pds s.pds).markSuspect _ rfl
  · rfl

/-- The bins whose stage A sheet is marked are those of which the checkpoint is an exit (R83). -/
theorem foldl_markStage_filter (c : Checkpoint) (l : List Bin) (s : State) :
    l.foldl (fun u b => if isExitOf u.pds b c then markStage b .a u else u) s =
      (l.filter fun b => isExitOf s.pds b c).foldl (fun u b => markStage b .a u) s := by
  induction l generalizing s with
  | nil => rfl
  | cons b l ih =>
    rw [List.foldl_cons, List.filter_cons]
    by_cases hb : isExitOf s.pds b c = true
    · rw [if_pos hb, if_pos hb, List.foldl_cons, ih, markStage_pds]
    · rw [if_neg hb, if_neg hb, ih]

theorem markExitSuspects_eq (c : Checkpoint) (s : State) : markExitSuspects c s =
    ((List.finRange 6).filter fun b => isExitOf s.pds b c).foldl (fun u b => markStage b .a u) s :=
  foldl_markStage_filter c (List.finRange 6) s

/-! ## The match of a lead (R59, R60) -/

/-- A candidate, which has a step or PURGE EXIT ahead of it, may take the edge by R59 step 3. -/
theorem mayTake_iff {s : State} {c : Checkpoint} {n : Count} {r : Sheet} (h : s.expected r = some c) :
    mayTake s n r = true ↔ MayTake s n r := by
  unfold MayTake
  cases hs : r.state with
  | runout => simp [mayTake, hs]
  | settling => simp [State.expected, hs] at h
  | stranded => simp [State.expected, hs] at h
  | admitted | moving =>
    cases hn : r.next with
    | purgeExit => simp [State.expected, hs, hn] at h
    | purgeDone => simp [State.expected, hs, hn] at h
    | step i =>
      cases hst : (s.routeOf r).steps[i]? with
      | none => simp [State.expected, hs, hn, hst] at h
      | some st => simp [mayTake, hs, hn, hst, reached, elapsed]

section
variable {s : State} {c : Checkpoint} {n : Count} (f : Bool)

theorem matchLead_occupied {r : Sheet} (h : s.occupant c = some r) :
    matchLead f c n s = if f then raiseAt .phantom c (some r.tag) s else s := by simp only [matchLead, h]

variable (ho : s.occupant c = none)
include ho

theorem matchLead_noCandidate (h : (s.stk.sheets.filter fun r => decide (s.expected r = some c)) = []) :
    matchLead f c n s = if f then raiseAt .phantom c none s else s := by simp only [matchLead, ho, h]

/-- No candidate may take the edge: the oldest one is EARLY (R60). -/
theorem matchLead_early {r : Sheet} {rest : List Sheet}
    (h : (s.stk.sheets.filter fun r => decide (s.expected r = some c)) = r :: rest)
    (hn : ∀ x ∈ r :: rest, ¬MayTake s n x) :
    matchLead f c n s = if f then raiseAt .early c (some r.tag) s else s := by
  have hfind : (r :: rest).find? (mayTake s n) = none := by
    refine List.find?_eq_none.2 fun x hx => ?_
    have hm := hn x hx
    rw [← h] at hx
    exact mt (mayTake_iff (of_decide_eq_true (List.mem_filter.1 hx).2)).1 hm
  simp only [matchLead, ho, h, hfind]

/-- The oldest candidate that may take the edge is chosen (R59 step 4). -/
theorem matchLead_chosen {pre rest : List Sheet} {r : Sheet}
    (h : (s.stk.sheets.filter fun r => decide (s.expected r = some c)) = pre ++ r :: rest)
    (hn : ∀ x ∈ pre, ¬MayTake s n x) (hr : MayTake s n r) : matchLead f c n s = matchSheet f c n r s := by
  have candidate {x : Sheet} (hx : x ∈ pre ++ r :: rest) : s.expected x = some c := by
    rw [← h] at hx
    exact of_decide_eq_true (List.mem_filter.1 hx).2
  have hfind : (pre ++ r :: rest).find? (mayTake s n) = some r := by
    refine find?_behind rest (fun x hx => ?_) ((mayTake_iff (candidate (by simp))).2 hr)
    exact Bool.eq_false_iff.2 (mt (mayTake_iff (candidate (List.mem_append_left _ hx))).1 (hn x hx))
  simp only [matchLead, ho, h]
  split
  next he => simp at he
  next he => rw [← he, hfind]

end

theorem matchSheet_full {r : Sheet} {o : Occupied} {os : List Occupied} (h : r.occupied = o :: os) (hl : 2 ≤ os.length)
    (f : Bool) (c : Checkpoint) (n : Count) (s : State) :
    matchSheet f c n r s = if f then raiseAt .stuck o.ck (some r.tag) s else s := by
  have hfull : Config.occupiedMax ≤ r.occupied.length := by rw [h]; exact Nat.succ_le_succ hl
  rw [matchSheet, if_pos hfull, h]
  rfl

/-- The chosen sheet takes the edge; one that was ADMITTED clears the feed interlock that names it (R59, R139). -/
theorem matchSheet_takes {r : Sheet} (h : r.occupied.length < 3) (f : Bool) (c : Checkpoint) (n : Count) (s : State) :
    matchSheet f c n r s = { s with
      stk := { s.stk with sheets := s.stk.sheets.map fun x => if x.tag = r.tag then x.matched (s.routeOf r) c n else x }
      ogt := { s.ogt with interlock :=
        if r.state = .admitted ∧ s.ogt.interlock = some r.tag then none else s.ogt.interlock } } := by
  have hroom : ¬Config.occupiedMax ≤ r.occupied.length := Nat.not_le.2 h
  rw [matchSheet, if_neg hroom]
  by_cases ha : r.state = .admitted
  · simp only [ha, if_true, true_and]; rfl
  · simp only [ha, if_false, false_and]; rfl

theorem afterMatch_step {rt : Route} {r : Sheet} {i : Nat} (h : r.next = .step i) : afterMatch rt r =
    if r.state = .runout ∧ r.disposition = some .purge ∧ rt.divertIndex < i + 1 then .purgeExit else .step (i + 1) := by
  simp only [afterMatch, h, purgeCourse, ← and_assoc, ite_and]

/-! ## The release of an entry and the exits (R64 to R66) -/

theorem updSheet_updSheet (t : Tag) {f : Sheet → Sheet} (g : Sheet → Sheet) (s : State)
    (hf : ∀ r, (f r).tag = r.tag) : updSheet t g (updSheet t f s) = updSheet t (fun r => g (f r)) s := by
  have hmap : (s.stk.sheets.map fun r => if r.tag = t then f r else r).map (fun r => if r.tag = t then g r else r) =
      s.stk.sheets.map fun r => if r.tag = t then g (f r) else r := by
    rw [List.map_map]
    refine List.map_congr_left fun r _ => ?_
    by_cases hr : r.tag = t
    · simp [hr, hf]
    · simp [hr]
  simp only [updSheet, State.onStk, hmap]

/-- The gate watches the slots that records hold, and nothing else of them. -/
theorem gateView_updSheet (t : Tag) {f : Sheet → Sheet} (s : State) (hf : ∀ r, (f r).slot = r.slot) :
    gateView s = gateView (updSheet t f s) := by
  have hslots : (s.stk.sheets.map fun r => if r.tag = t then f r else r).map (·.slot) = s.stk.sheets.map (·.slot) := by
    rw [List.map_map]
    refine List.map_congr_left fun r _ => ?_
    by_cases hr : r.tag = t
    · simp [hr, hf]
    · simp [hr]
  simp only [gateView, updSheet, State.onStk, hslots]

/-- A record whose trail is its last: it covers no checkpoint any more (R65, R66). -/
def Sheet.trailLast (n : Count) (r : Sheet) : Sheet :=
  { r with occupied := [], runoutStamp := if r.state = .runout then some n else r.runoutStamp }

theorem clearOccupied_trail (t : Tag) (c : Checkpoint) (n : Count) (s : State) :
    clearOccupied t (updSheet t (Sheet.trail c n) s) = updSheet t (Sheet.trailLast n) s :=
  updSheet_updSheet t _ s fun _ => rfl

theorem isExitStep_iff (rt : Route) (x : NextStep) :
    rt.isExitStep x = true ↔ ∃ i st, x = .step i ∧ rt.steps[i]? = some st ∧ st.isExit = true := by
  cases x with
  | step i => cases hs : rt.steps[i]? <;> simp [Route.isExitStep, hs]
  | purgeExit => simp [Route.isExitStep]
  | purgeDone => simp [Route.isExitStep]

section
variable {s : State} {c : Checkpoint} {n : Count} {r : Sheet} {pre post : List Occupied} {x : Occupied}
  (hr : r.occupied = pre ++ x :: post) (hpre : ∀ y ∈ pre, y.ck ≠ c) (hx : x.ck = c)
include hr hpre hx

theorem entryStep_eq : (r.occupied.find? (·.ck = c)).map (·.step) = some x.step := by
  rw [hr, find?_behind post (fun y hy => decide_eq_false (hpre y hy)) (decide_eq_true hx)]
  rfl

theorem releaseEntry_purgeExit (hs : x.step = .purgeExit) : releaseEntry c n r s =
    checkRunoutComplete (endSheet r.tag .purged (updSheet r.tag (Sheet.trailLast n) s)) := by
  simp only [releaseEntry, entryStep_eq hr hpre hx, hs, purgeSheet, clearOccupied_trail]

/-- A trail at a step of the route: an exit step, or one the sheet goes on from. -/
theorem releaseEntry_step (hs : x.step ≠ .purgeExit) : releaseEntry c n r s =
    if (s.routeOf r).isExitStep x.step then exitSheet c r (updSheet r.tag (Sheet.trail c n) s)
    else updSheet r.tag (Sheet.trail c n) s := by
  cases he : x.step with
  | purgeExit => exact absurd he hs
  | step i => simp only [releaseEntry, entryStep_eq hr hpre hx, he]; rfl
  | purgeDone => simp only [releaseEntry, entryStep_eq hr hpre hx, he]; rfl

end

/-- An exit by what the sheet lacks: its sides, or its place in the order (R65). -/
theorem exitSheet_trail (c : Checkpoint) (n : Count) (r : Sheet) (s : State) :
    let u := updSheet r.tag (Sheet.trailLast n) s
    exitSheet c r (updSheet r.tag (Sheet.trail c n) s) =
      if sidesComplete (s.routeOf r) r = false then raiseAt .callFault c (some r.tag) u
      else if r.outOfOrder then checkRunoutComplete (removeAtExit r u)
      else checkRunoutComplete (handOver c r u) := by
  rw [exitSheet, clearOccupied_trail]
  rfl

section
variable {s : State} {c : Checkpoint} {n : Count} (f : Bool)

theorem takeTrail_none (h : s.occupant c = none) :
    takeTrail f c n s = if f then raiseAt .trailFault c none s else s := by simp only [takeTrail, h]

theorem takeTrail_some {r : Sheet} (h : s.occupant c = some r) : takeTrail f c n s = releaseEntry c n r s := by
  simp only [takeTrail, h]

end

end Sys2Proof.Machine

namespace Sys2Proof.Proofs
open Sys2Proof.Machine

/-- Settles O47: the JAM at a checkpoint, an edge that is not due, and a lead by occupant, candidates and the chosen sheet. -/
theorem leadEdge : Obligations.LeadEdge := by
  unfold Obligations.LeadEdge
  refine ⟨?jam, ?notDue, ?edge⟩
  case jam =>
    intro s cause c tag exits marked
    have hexits : exits = (List.finRange 6).filter fun b => isExitOf s.pds b c := by
      simp only [exits, isExitOf, exits_contains]
    have hmarked : markExitSuspects c s = marked := by rw [markExitSuspects_eq, ← hexits]; rfl
    rw [raiseAt, hmarked]
  case notDue =>
    intro s c h
    exact event_unchanged (Machine.leadEdge c) (by simp only [Machine.leadEdge, nextEdge_none h])
  case edge =>
    intro s c e before after later h hd t candidates
    have hrun := exec_leadEdge_waits h hd
    have hquiet : gateView s = gateView t := gateView_edgeTaken s c true before after later
    refine ⟨fun hh => ?_, fun hm => ?_⟩
    · rw [hrun, if_pos hh, watchGate_same hquiet]
    have taken {u : State} (hu : matchLead s.stk.path.raisesFaults c e.stamp t = u) :
        exec (.leadEdge c) s = .next (watchGate s u) := by rw [hrun, if_neg hm, ← hu]
    refine ⟨fun r ho => ?occupied, fun ho hc => ?noCandidate, fun r rest ho hc hn => ?early,
      fun pre r rest ho hc hn hr => ?chosen⟩
    case occupied => exact next_of_faults hquiet (taken (matchLead_occupied _ ho))
    case noCandidate => exact next_of_faults hquiet (taken (matchLead_noCandidate _ ho hc))
    case early => exact next_of_faults hquiet (taken (matchLead_early (s := t) _ ho hc hn))
    case chosen =>
      have hchosen := matchLead_chosen (s := t) s.stk.path.raisesFaults ho hc hn hr
      refine ⟨fun o os hl h2 => ?_, fun h3 => ?_⟩
      · exact next_of_faults hquiet (taken (hchosen.trans (matchSheet_full hl h2 _ c e.stamp t)))
      · intro rt matched
        have hmatched : ∀ x : Sheet, x.matched rt c e.stamp = matched x := by
          intro x
          cases hx : x.next with
          | step i => simp only [Sheet.matched, matched, afterMatch_step hx, hx]
          | purgeExit => simp only [Sheet.matched, matched, afterMatch, hx]
          | purgeDone => simp only [Sheet.matched, matched, afterMatch, hx]
        have htakes := matchSheet_takes h3 s.stk.path.raisesFaults c e.stamp t
        have hrt : t.routeOf r = rt := rfl
        simp only [hrt, hmatched] at htakes
        exact taken (hchosen.trans htakes)

/-- Settles O48: an edge that is not due, and a trail by occupant, step of the entry, sides and place in the order. -/
theorem trailEdge : Obligations.TrailEdge := by
  unfold Obligations.TrailEdge
  refine ⟨?notDue, ?edge⟩
  case notDue =>
    intro s c h
    exact event_unchanged (Machine.trailEdge c) (by simp only [Machine.trailEdge, nextEdge_none h])
  case edge =>
    intro s c e before after later h hd t
    have hrun := exec_trailEdge_waits h hd
    have hquiet : gateView s = gateView t := gateView_edgeTaken s c false before after later
    have taken {u : State} (hm : s.stk.path ≠ .halted) (hu : takeTrail s.stk.path.raisesFaults c e.stamp t = u) :
        exec (.trailEdge c) s = .next (watchGate s u) := by rw [hrun, if_neg hm, ← hu]
    refine ⟨fun hh => ?_, fun ho => ?_, fun r pre x post ho hm hr hpre hx => ?_⟩
    · rw [hrun, if_pos hh, watchGate_same hquiet]
    · have hnone := takeTrail_none (s := t) (n := e.stamp) s.stk.path.raisesFaults ho
      exact ⟨fun hf => (next_of_faults hquiet (taken hf.not_halted hnone)).1 hf,
        fun hh => (next_of_faults hquiet (taken (by rw [hh]; decide) hnone)).2 hh⟩
    intro rt left atExit
    have hfound := takeTrail_some (s := t) (n := e.stamp) s.stk.path.raisesFaults ho
    have hpass : updSheet r.tag (Sheet.trail c e.stamp) t = left true := rfl
    have hlast : updSheet r.tag (Sheet.trailLast e.stamp) t = left false := rfl
    have hview : gateView s = gateView (left true) := hquiet.trans (gateView_updSheet r.tag t fun _ => rfl)
    have released (hs : x.step ≠ .purgeExit) : releaseEntry c e.stamp r t =
        if rt.isExitStep x.step then exitSheet c r (updSheet r.tag (Sheet.trail c e.stamp) t)
        else updSheet r.tag (Sheet.trail c e.stamp) t := releaseEntry_step hr hpre hx hs
    refine ⟨fun hs hn => ?_, fun hs => ?_, fun hexit => ?_⟩
    · have hstep := released hs
      rw [if_neg (mt (isExitStep_iff rt x.step).1 hn), hpass] at hstep
      rw [taken hm (hfound.trans hstep), watchGate_same hview]
    · exact taken hm (hfound.trans (releaseEntry_purgeExit hr hpre hx hs))
    · have hs : x.step ≠ .purgeExit := by
        obtain ⟨i, st, hi, _⟩ := hexit
        rw [hi]; nofun
      have hstep := released hs
      rw [if_pos ((isExitStep_iff rt x.step).2 hexit), exitSheet_trail, hlast] at hstep
      have hleave := taken hm (hfound.trans hstep)
      intro complete
      have lacking (hc : ¬complete) : sidesComplete (t.routeOf r) r = false :=
        (sidesComplete_eq rt r).trans (decide_eq_false hc)
      have whole (hc : complete) : ¬sidesComplete (t.routeOf r) r = false :=
        ne_false_of_eq_true ((sidesComplete_eq rt r).trans (decide_eq_true hc))
      refine ⟨fun hc => ?_, fun hc hoo => ?_, fun hc hoo => ?_⟩
      · rw [hleave, if_pos (lacking hc)]
      · rw [hleave, if_neg (whole hc), if_pos hoo]; rfl
      · rw [hleave, if_neg (whole hc), hoo]; rfl

end Sys2Proof.Proofs
end

section
/-!
What leaves the Sheet Tracker alone: the operations of the other blocks, and the watch over the gate head.
-/
namespace Sys2Proof.Machine

section
variable (s : State)

@[simp] theorem post_stk (n : Notice) : (post n s).stk = s.stk := rfl
@[simp] theorem watchGate_stk (before : State) : (watchGate before s).stk = s.stk := (watchGate_watched before s).stk
@[simp] theorem watched_stk (f : State → State) : (watched f s).stk = (f s).stk := watchGate_stk (f s) s

/-! ### The Page Directory -/

@[simp] theorem loseProtection_stk (t : SetTag) : (loseProtection t s).stk = s.stk := by
  unfold loseProtection
  repeat' split
  all_goals rfl

@[simp] theorem reportDiscard_stk (k : PageKey) : (reportDiscard k s).stk = s.stk := by
  unfold reportDiscard
  repeat' split
  all_goals rfl

@[simp] theorem discardDuplicate_stk (k : PageKey) (i : Nat) : (discardDuplicate k i s).stk = s.stk := rfl
@[simp] theorem discardGap_stk (k : PageKey) (i : Nat) : (discardGap k i s).stk = s.stk := reportDiscard_stk _ k
@[simp] theorem discardFull_stk (k : PageKey) (i : Nat) : (discardFull k i s).stk = s.stk := reportDiscard_stk _ k

@[simp] theorem fillWay_stk (k : PageKey) (i : Nat) : (fillWay k i s).stk = s.stk := by
  unfold fillWay
  dsimp only
  repeat' split
  all_goals simp

@[simp] theorem displacePool_stk (k : PageKey) : (displacePool k s).stk = s.stk := by
  unfold displacePool
  repeat' split
  all_goals simp

@[simp] theorem takeBlock_stk (k : PageKey) (i index len : Nat) : (takeBlock k i index len s).1.stk = s.stk := by
  unfold takeBlock
  dsimp only
  split <;> simp

@[simp] theorem placeByTable_stk (k : PageKey) (index : Nat) (final : Bool) (len : Nat) :
    (placeByTable k index final len s).1.stk = s.stk := by
  unfold placeByTable
  repeat' split
  all_goals simp

@[simp] theorem place_stk (k : PageKey) (index : Nat) (final : Bool) (len : Nat) :
    (place k index final len s).1.stk = s.stk := by
  unfold place
  split <;> simp

@[simp] theorem writeCompleted_stk (k : PageKey) (final : Bool) : (writeCompleted k final s).stk = s.stk := by
  unfold writeCompleted
  repeat' split
  all_goals rfl

@[simp] theorem claimLine_stk (q : Seq) (k : PageKey) : (claimLine q k s).stk = s.stk := by
  unfold claimLine
  repeat' split
  all_goals rfl

@[simp] theorem relockLine_stk (q : Seq) (k : PageKey) : (relockLine q k s).stk = s.stk := by
  unfold relockLine
  repeat' split
  all_goals rfl

@[simp] theorem unpinAbandoned_stk (k : PageKey) : (unpinAbandoned k s).stk = s.stk := by rw [unpinAbandoned_frame]
@[simp] theorem imagingDoneLine_stk (k : PageKey) : (imagingDoneLine k s).stk = s.stk := by rw [imagingDoneLine_frame]

@[simp] theorem walkInvalidate_stk (i : Nat) (l : Line) (w : Walk) : (walkInvalidate i l w s).2.stk = s.stk := by
  unfold walkInvalidate
  dsimp only
  repeat' split
  all_goals rfl

@[simp] theorem walkWays_stk (is : List Nat) (w : Walk) (t : Option SetTag) : (walkWays is w t s).2.2.stk = s.stk := by
  induction is generalizing w t s with
  | nil => rfl
  | cons i is ih =>
    unfold walkWays
    dsimp only
    repeat' split
    all_goals simp [ih]

@[simp] theorem walkEnd_stk (w : Walk) : (walkEnd w s).stk = s.stk := by
  unfold walkEnd
  dsimp only
  split <;> rfl

@[simp] theorem walkStep_stk (w : Walk) : (walkStep w s).stk = s.stk := by
  unfold walkStep
  dsimp only
  repeat' split
  all_goals simp

/-! ### The Order Gate and the Delivery Unit -/

@[simp] theorem checkDone_stk (j : JobSlot) : (checkDone j s).stk = s.stk := by
  unfold checkDone
  dsimp only
  split <;> rfl

@[simp] theorem returnEntry_stk (r : Sheet) : (returnEntry r s).stk = s.stk := by
  unfold returnEntry
  dsimp only
  split <;> rfl

@[simp] theorem reissueOrInvalidate_stk (e : Ending) (r : Sheet) : (reissueOrInvalidate e r s).stk = s.stk := by
  unfold reissueOrInvalidate
  repeat' split
  all_goals rfl

@[simp] theorem joinSet_stk (b : Bin) (r : Sheet) : (joinSet b r s).stk = s.stk := by
  unfold joinSet
  dsimp only
  repeat' split
  all_goals simp

@[simp] theorem ejectSet_stk (b : Bin) : (ejectSet b s).stk = s.stk := by
  unfold ejectSet
  repeat' split
  · exact checkDone_stk _ _
  · rfl
  · rfl

@[simp] theorem reissueProtected_stk (p : Protected) : (reissueProtected p s).stk = s.stk := watched_stk s _

@[simp] theorem purgeSet_stk : (purgeSet s).stk = s.stk := by
  unfold purgeSet
  split
  · rfl
  · split
    · exact (watched_stk _ _).trans
        (kept_foldl (P := fun u => u.stk = s.stk) (fun u p hu => (reissueProtected_stk u p).trans hu) _ rfl)
    · exact (watched_stk _ _).trans (checkDone_stk _ _)

/-! ### The Recovery Controller -/

@[simp] theorem retryTest_stk (m : Misfeed) : (retryTest m s).stk = s.stk := by
  unfold retryTest
  repeat' split
  all_goals rfl

@[simp] theorem postJamReport_stk : (postJamReport s).stk = s.stk := by
  unfold postJamReport
  split <;> rfl

@[simp] theorem postSuspectRequests_stk (l : List (Bin × Tag × Seq)) : (postSuspectRequests l s).stk = s.stk := by
  refine kept_foldl (P := fun u => u.stk = s.stk) (fun u b hu => ?_) _ rfl
  split <;> exact hu

@[simp] theorem relockReissues_stk : (relockReissues s).stk = s.stk := by
  refine kept_foldl (P := fun u => u.stk = s.stk) (fun u e hu => ?_) _ rfl
  exact kept_foldl (P := fun u => u.stk = s.stk)
    (fun v k hv => ((watched_stk v _).trans (relockLine_stk v e.seq k)).trans hv) _ hu

@[simp] theorem preempt_stk (c : IncClass) : (preempt c s).stk = s.stk := by
  unfold preempt
  dsimp only
  split <;> rfl

@[simp] theorem placeRecord_stk (o : Occurrence) : (placeRecord o s).stk = s.stk := by
  unfold placeRecord
  dsimp only
  split
  · exact preempt_stk s _
  · rfl

/-! ### Bands and replays -/

@[simp] theorem present_stk (b : Band) : (present b s).1.stk = s.stk := by
  unfold present
  dsimp only
  repeat' split
  all_goals simp [discardMode]

@[simp] theorem band_stk : (band s).stk = s.stk := by
  unfold band takeBand
  dsimp only
  repeat' split
  all_goals simp [request]

@[simp] theorem writeTransferEnd_stk : (writeTransferEnd s).stk = s.stk := by
  have hwrite (u : State) (b : Band) (n : Nat) : (completeWrite b n u).stk = u.stk := by
    simp [completeWrite, storeBand]
  have hnext (u : State) : (nextWrite u).stk = u.stk := by
    unfold nextWrite presentWaiting
    split <;> simp [boundary]
  unfold writeTransferEnd
  split <;> simp [hwrite, hnext]

@[simp] theorem abandonReplay_stk : (abandonReplay s).stk = s.stk := by
  unfold abandonReplay
  split <;> simp

@[simp] theorem readEndStreaming_stk (c : CallReq) (chain : List Nat) (n : Nat) :
    (readEndStreaming c chain n s).stk = s.stk := by
  unfold readEndStreaming
  dsimp only
  split <;> rfl

@[simp] theorem bandoutGiven_stk : (bandoutGiven s).stk = s.stk := by
  unfold bandoutGiven
  split
  · dsimp only
    split <;> rfl
  · rfl

end
end Sys2Proof.Machine
end

section
/-!
The Sheet Tracking Table in order (R49, R54), kept by the shared operations. `Closed` allows any change of the tracker, so it
says nothing of the table; here the changes are those the operations make: records go, or keep slot, tag and checkpoints.
-/
namespace Sys2Proof.Machine

/-- The checkpoints a sheet covers. -/
def Sheet.covers (r : Sheet) : List Checkpoint := r.occupied.map (·.ck)

/-- A record as a later one of the same sheet: its slot and tag, and some of its checkpoints. -/
structure Sheet.Within (x r : Sheet) : Prop where
  slot : x.slot = r.slot
  tag : x.tag = r.tag
  covers : x.covers.Sublist r.covers

/-- A change of records that keeps slot, tag and checkpoints. -/
theorem Sheet.within_of_same {x r : Sheet} (hs : x.slot = r.slot) (ht : x.tag = r.tag) (ho : x.occupied = r.occupied) :
    x.Within r := ⟨hs, ht, by rw [Sheet.covers, ho]; exact .refl _⟩

theorem TableOk.of_sheets {t u : Tracker} (h : TableOk t) (hs : u.sheets = t.sheets) : TableOk u := by
  obtain ⟨slots, tags, lists, occupants⟩ := h
  exact ⟨hs ▸ slots, hs ▸ tags, hs ▸ lists, hs ▸ occupants⟩

/-- A table from which records have gone. -/
theorem TableOk.filter {t : Tracker} (h : TableOk t) (p : Sheet → Bool) : TableOk { t with sheets := t.sheets.filter p } where
  slots := h.slots.sublist (List.filter_sublist.map _)
  tags := h.tags.sublist (List.filter_sublist.map _)
  lists r hr := h.lists r (List.mem_of_mem_filter hr)
  occupants := h.occupants.sublist (List.filter_sublist.flatMap _)

/-- A table whose records have changed, but for slot, tag and checkpoints gained. -/
theorem TableOk.map {t : Tracker} (h : TableOk t) {f : Sheet → Sheet} (hf : ∀ r ∈ t.sheets, (f r).Within r) :
    TableOk { t with sheets := t.sheets.map f } where
  slots := by
    have hm : t.sheets.map ((·.slot) ∘ f) = t.sheets.map (·.slot) := List.map_congr_left fun r hr => (hf r hr).slot
    rw [List.map_map, hm]
    exact h.slots
  tags := by
    have hm : t.sheets.map ((·.tag) ∘ f) = t.sheets.map (·.tag) := List.map_congr_left fun r hr => (hf r hr).tag
    rw [List.map_map, hm]
    exact h.tags
  lists := by
    simp only [List.forall_mem_map]
    intro r hr
    have hl := (hf r hr).covers.length_le
    rw [Sheet.covers, Sheet.covers, List.length_map, List.length_map] at hl
    exact hl.trans (h.lists r hr)
  occupants := by
    rw [List.flatMap_map]
    exact h.occupants.sublist (.flatMap_right _ fun r hr => (hf r hr).covers)

/-- The Sheet Tracking Table is in order. -/
abbrev TableInOrder (s : State) : Prop := TableOk s.stk

namespace TableInOrder
variable {s : State}

/-- What leaves the tracker alone keeps its table in order. -/
theorem of_stk {t : State} (h : TableInOrder s) (hs : t.stk = s.stk) : TableInOrder t := by
  rw [TableInOrder, hs]; exact h

theorem watchGate (before : State) (h : TableInOrder s) : TableInOrder (watchGate before s) := h.of_stk (watchGate_stk s _)

theorem dropSheet (t : Tag) (h : TableInOrder s) : TableInOrder (dropSheet t s) := h.filter _

theorem updSheet {t : Tag} {f : Sheet → Sheet} (h : TableInOrder s) (hf : ∀ r ∈ s.stk.sheets, (f r).Within r) :
    TableInOrder (updSheet t f s) := by
  refine h.map fun r hr => ?_
  split
  · exact hf r hr
  · exact Sheet.within_of_same rfl rfl rfl

theorem withdrawAdmission (h : TableInOrder s) : TableInOrder (withdrawAdmission s) := by
  unfold Machine.withdrawAdmission
  dsimp only
  repeat' split
  · exact h
  · exact (h.dropSheet _).of_stk (returnEntry_stk _ _)
  · exact h

theorem endSheet (t : Tag) (e : Ending) (h : TableInOrder s) : TableInOrder (endSheet t e s) := by
  unfold Machine.endSheet
  split
  · exact h
  · exact (h.dropSheet t).of_stk (by simp [clearInterlock, onJob])

theorem requestHalt (h : TableInOrder s) : TableInOrder (requestHalt s) := by
  unfold Machine.requestHalt
  split <;> exact h.of_sheets rfl

theorem requestResume (h : TableInOrder s) : TableInOrder (requestResume s) := by
  unfold Machine.requestResume
  split <;> exact h.of_sheets rfl

theorem setDisposition (t : Tag) (d : Disposition) (h : TableInOrder s) : TableInOrder (setDisposition t d s) := by
  refine h.updSheet fun r _ => ?_
  unfold Sheet.setDisposition
  split <;> exact Sheet.within_of_same rfl rfl rfl

theorem claimDivert (rt : Route) (t : Tag) (h : TableInOrder s) : TableInOrder (claimDivert rt t s) := by
  refine h.updSheet fun r _ => ?_
  split <;> exact Sheet.within_of_same rfl rfl rfl

theorem markOutOfOrder (t : Tag) (h : TableInOrder s) : TableInOrder (markOutOfOrder t s) := by
  refine h.updSheet fun r _ => ?_
  split <;> exact Sheet.within_of_same rfl rfl rfl

/-! ### The Delivery Unit -/

theorem markSuspect (t : Tag) (h : TableInOrder s) : TableInOrder (markSuspect t s) := by
  unfold Machine.markSuspect
  repeat' split
  · exact h.updSheet fun r _ => Sheet.within_of_same rfl rfl rfl
  · exact h
  · exact h

theorem removeSettling (t : Tag) (h : TableInOrder s) : TableInOrder (removeSettling t s) := by
  unfold Machine.removeSettling
  dsimp only
  repeat' split
  · exact h
  all_goals exact h.endSheet t .removed

theorem compile (b : Bin) (r : Sheet) (h : TableInOrder s) : TableInOrder (compile b r s) :=
  (h.endSheet r.tag .compiled).of_stk (joinSet_stk _ b r)

theorem leaveB (b : Bin) (h : TableInOrder s) : TableInOrder (leaveB b s) := by
  unfold Machine.leaveB
  repeat' split
  · exact h
  · exact h.compile b _
  · exact h.endSheet _ .delivered

theorem shiftA (b : Bin) (h : TableInOrder s) : TableInOrder (shiftA b s) := by
  unfold Machine.shiftA
  split
  · exact h
  · exact h.updSheet fun r _ => Sheet.within_of_same rfl rfl rfl

theorem advanceEjection (b : Bin) (t : Tag) (h : TableInOrder s) : TableInOrder (advanceEjection b t s) :=
  ((h.leaveB b).shiftA b).updSheet fun _ _ => Sheet.within_of_same rfl rfl rfl

theorem advanceExpiry (b : Bin) (h : TableInOrder s) : TableInOrder (advanceExpiry b s) := by
  unfold Machine.advanceExpiry
  dsimp only
  split <;> exact (h.leaveB b).shiftA b

theorem purgeStage (b : Bin) (st : Stage) (h : TableInOrder s) : TableInOrder (purgeStage b st s).1 := by
  unfold Machine.purgeStage
  split
  · exact h.removeSettling _
  · exact h

theorem purgeQueue (h : TableInOrder s) : TableInOrder (purgeQueue s).1 := by
  unfold Machine.purgeQueue
  split
  · exact (h.purgeStage _ .b).purgeStage _ .a
  · exact h

theorem foldl {α : Type} {g : State → α → State} (l : List α) (h : TableInOrder s)
    (hg : ∀ u a, TableInOrder u → TableInOrder (g u a)) : TableInOrder (l.foldl g s) := kept_foldl hg l h

/-! ### The Recovery Controller -/

theorem enterAssess (h : TableInOrder s) : TableInOrder (enterAssess s) := by
  have ha : TableInOrder (Machine.assessSheets (Machine.setPhase .jam .assess s)) := by
    refine h.map fun r _ => ?_
    split <;> exact Sheet.within_of_same rfl rfl rfl
  exact ha.of_stk (postJamReport_stk _)

theorem enterStop (h : TableInOrder s) : TableInOrder (enterStop s) := by
  unfold Machine.enterStop
  dsimp only
  split
  · exact enterAssess h
  · exact requestHalt h

theorem resumeClearance (h : TableInOrder s) : TableInOrder (resumeClearance s) := h.of_stk (postJamReport_stk s)

theorem removeSuspects (l : List (Bin × Stage)) (h : TableInOrder s) : TableInOrder (removeSuspects l s).1 := by
  induction l generalizing s with
  | nil => exact h
  | cons x l ih =>
    unfold Machine.removeSuspects
    split
    · exact ih (h.removeSettling _)
    · exact ih h

theorem purgeCompile (h : TableInOrder s) : TableInOrder (purgeCompile s) := by
  have hp : TableInOrder (Machine.purgeSet (Machine.purgeQueue s).1) := h.purgeQueue.of_stk (purgeSet_stk _)
  unfold Machine.purgeCompile
  dsimp only
  split <;> exact hp

theorem rebuildWork (h : TableInOrder s) : TableInOrder (rebuildWork s) := by
  unfold Machine.rebuildWork
  extract_lets x u
  have hx : TableInOrder x.1 := removeSuspects allStages (s := Machine.setPhase .jam .rebuild s) h
  have hu : TableInOrder u := hx.of_stk (postSuspectRequests_stk x.1 x.2)
  refine of_stk ?_ (relockReissues_stk _)
  split
  · exact hu.purgeCompile
  · exact hu

section
variable {cl : IncClass → State → State} (hc : ∀ c u, TableInOrder u → TableInOrder (cl c u))
include hc

theorem testTrayHold (h : TableInOrder s) : TableInOrder (testTrayHold cl s) := by
  unfold Machine.testTrayHold
  dsimp only
  split
  · exact hc _ _ h
  · exact h

theorem enterRetry (h : TableInOrder s) : TableInOrder (enterRetry cl s) := by
  unfold Machine.enterRetry
  extract_lets u v
  have hu : TableInOrder u := by
    unfold u
    repeat' split
    · exact h
    · exact h.of_stk (retryTest_stk s _)
    · exact h
  have hv : TableInOrder v := hu
  split
  · exact hc _ _ hv
  · exact testTrayHold hc hv

theorem testSupply (h : TableInOrder s) : TableInOrder (testSupply cl s) := by
  unfold Machine.testSupply
  split
  · exact h
  · exact hc _ _ h

theorem startPhase (c : IncClass) (h : TableInOrder s) : TableInOrder (startPhase cl c s) := by
  cases c with
  | interlock => exact requestHalt h
  | jam => exact enterStop h
  | misfeed => exact enterRetry hc h
  | supply => exact testSupply hc h

theorem resumeJam (p : Phase) (h : TableInOrder s) : TableInOrder (resumeJam cl p s) := by
  cases p with
  | stop => exact enterStop h
  | assess => exact enterAssess h
  | clearance | dispose | runout => exact resumeClearance h
  | rebuild => exact hc _ _ (rebuildWork h)
  | opened | shutWait | retry | trayHold | hold => exact h

theorem resumeMisfeed (h : TableInOrder s) : TableInOrder (resumeMisfeed cl s) := by
  unfold Machine.resumeMisfeed
  repeat' split
  · exact testTrayHold hc h
  · exact enterRetry hc h
  · exact testTrayHold hc h

theorem resumePhase (c : IncClass) (h : TableInOrder s) : TableInOrder (resumePhase cl c s) := by
  cases c with
  | interlock => exact requestHalt h
  | jam => exact resumeJam hc _ h
  | misfeed => exact resumeMisfeed hc h
  | supply => exact testSupply hc h

theorem activate (c : IncClass) (h : TableInOrder s) : TableInOrder (activate cl c s) := by
  unfold Machine.activate
  split
  · exact startPhase hc c h
  · exact resumePhase hc c h

end

theorem closeRecord (n : Nat) : ∀ c u, TableInOrder u → TableInOrder (closeRecord n c u) := by
  induction n with
  | zero => exact fun _ _ h => h
  | succ n ih =>
    intro c u h
    have resumed {v : State} (hv : TableInOrder v) : TableInOrder (resumePath c v) := by
      unfold resumePath
      split
      · exact hv.requestResume
      · exact hv
    unfold Machine.closeRecord
    dsimp only
    repeat' split
    · exact h
    · exact resumed (activate ih _ h)
    · exact resumed h

theorem close (c : IncClass) (h : TableInOrder s) : TableInOrder (close c s) := closeRecord 4 c s h

theorem openRecord (o : Occurrence) (h : TableInOrder s) : TableInOrder (openRecord o s) := by
  have hp : TableInOrder (placeRecord o s) := h.of_stk (placeRecord_stk s o)
  have hr : TableInOrder (reportOpening o s (placeRecord o s)) := by
    unfold reportOpening
    split
    · exact hp.withdrawAdmission.watchGate s
    · exact hp
  unfold Machine.openRecord
  dsimp only
  split
  · exact startPhase (fun _ _ => close _) o.cls hr
  · exact hr

theorem mergeJam (st : IncStatus) (h : TableInOrder s) : TableInOrder (mergeJam st s) := by
  cases st with
  | active => exact enterStop h
  | preempted => exact h
  | pending => exact h

theorem mergeSupply (o : Occurrence) (st : IncStatus) (h : TableInOrder s) : TableInOrder (mergeSupply o st s) := by
  unfold Machine.mergeSupply
  extract_lets u
  have hu : TableInOrder u := by
    unfold u
    split <;> exact h
  split
  · exact testSupply (fun _ _ => close _) hu
  · exact hu

theorem mergeOccurrence (o : Occurrence) (i : Incident) (h : TableInOrder s) :
    TableInOrder (mergeOccurrence o i s) := by
  have hi : TableInOrder (Machine.onIncident o.cls (mergeRecord o) s) := h
  unfold Machine.mergeOccurrence
  dsimp only
  repeat' split
  · exact requestHalt hi
  · exact hi.mergeJam _
  · exact hi.of_stk (retryTest_stk _ _)
  · exact hi
  · exact hi.mergeSupply o _

/-- Taking an occurrence keeps the table in order. -/
theorem raise (o : Occurrence) (h : TableInOrder s) : TableInOrder (raise o s) := by
  unfold Machine.raise
  repeat' split
  · exact h
  · exact h.openRecord o
  · exact h.mergeOccurrence o _

theorem raiseAt (c : Cause) (k : Checkpoint) (t : Option Tag) (h : TableInOrder s) : TableInOrder (raiseAt c k t s) := by
  unfold Machine.raiseAt
  split
  · refine raise _ (h.foldl _ fun u b hu => ?_)
    repeat' split
    · exact hu.markSuspect _
    · exact hu
    · exact hu
  · exact h.raise _

theorem supplyReport (h : TableInOrder s) : TableInOrder (supplyReport s) := by
  unfold Machine.supplyReport
  split
  · exact testSupply (fun _ _ => close _) h
  · exact h

theorem trayReadyReport (h : TableInOrder s) : TableInOrder (trayReadyReport s) := by
  unfold Machine.trayReadyReport
  split
  · exact testTrayHold (fun _ _ => close _) h
  · exact h

theorem enterRebuild (h : TableInOrder s) : TableInOrder (enterRebuild s) := (rebuildWork h).close .jam

theorem haltedReport (h : TableInOrder s) : TableInOrder (haltedReport s) := by
  unfold Machine.haltedReport
  repeat' split
  · exact enterAssess h
  · exact h.enterRebuild
  · exact h

theorem checkRunoutComplete (h : TableInOrder s) : TableInOrder (checkRunoutComplete s) := by
  unfold Machine.checkRunoutComplete runoutCompleteReport
  repeat' split
  · exact requestHalt h
  · exact h
  · exact h

/-! ### DISPOSE and RUNOUT -/

theorem markLater (b : Bin) (q : Seq) (h : TableInOrder s) : TableInOrder (markLater b q s) :=
  h.foldl _ fun _ r hu => hu.markSuspect r.tag

theorem removePass (p : Sheet → Bool) (h : TableInOrder s) : TableInOrder (removePass p s) := by
  refine h.foldl _ fun u t hu => ?_
  unfold removeStranded
  dsimp only
  repeat' split
  · exact hu
  · exact hu.endSheet t .removed
  · exact (hu.endSheet t .removed).markLater _ _

theorem orderSheets (b : Bin) (l : List Sheet) (named : List Tag) (h : TableInOrder s) :
    TableInOrder (orderSheets b l s named).1 := by
  induction l generalizing s named with
  | nil => exact h
  | cons r l ih =>
    unfold Machine.orderSheets
    repeat' split
    · exact ih _ h
    · exact ih _ (h.setDisposition _ _)
    · exact ih _ h

theorem orderBins (l : List Bin) (named : List Tag) (h : TableInOrder s) : TableInOrder (orderBins l s named).1 := by
  induction l generalizing s named with
  | nil => exact h
  | cons b l ih => exact ih _ (h.orderSheets b _ _)

theorem beginRunout (h : TableInOrder s) : TableInOrder (beginRunout s) := by
  unfold Machine.beginRunout
  split
  · refine (h.map fun r _ => ?_).of_sheets rfl
    unfold Sheet.beginRunout
    split
    · exact ⟨rfl, rfl, by simp [Sheet.covers, Function.comp_def]⟩
    · exact Sheet.within_of_same rfl rfl rfl
  · exact h

theorem enterRunout (named : List Tag) (h : TableInOrder s) : TableInOrder (enterRunout named s) :=
  foldl _ (beginRunout (s := Machine.onIncident .jam _ s) h) fun _ t hu => hu.markOutOfOrder t

theorem enterDispose (h : TableInOrder s) : TableInOrder (enterDispose s) := by
  unfold Machine.enterDispose
  extract_lets u x v y w
  have hu : TableInOrder u := removePass _ (s := Machine.setPhase .jam .dispose s) h
  have hv : TableInOrder v := (hu.removeSuspects allStages).removePass _
  have hw : TableInOrder w := (hv.orderBins (List.finRange 6) []).of_stk (postSuspectRequests_stk _ _)
  split
  · exact hw.enterRunout _
  · exact hw.enterRebuild

theorem absenceReport (r : Sheet) (b : Bin) (c : Bool) (h : TableInOrder s) : TableInOrder (absenceReport r b c s) := by
  unfold Machine.absenceReport
  dsimp only
  split
  · refine markLater _ _ (h.foldl _ fun u t hu => ?_)
    unfold divert
    repeat' split
    · exact hu
    · exact hu.markOutOfOrder t
    · exact hu.claimDivert _ t
    · exact hu
  · exact h

end TableInOrder
end Sys2Proof.Machine
end

section
/-!
The two changes by which the table grows: an admission (R51), and the match of a lead (R59).
-/
namespace Sys2Proof.Machine

/-! ## A sheet joins the table: the choice of its slot and tag (R51) -/

theorem freeSlot_free {l : List Sheet} {i : Fin 24} (h : freeSlot l = some i) : ∀ r ∈ l, r.slot ≠ i := by
  simpa using List.find?_some h

/-- A tag is in use after all tries only when every tag tried is. -/
theorem freeTag_used (used : List Tag) : ∀ (n : Nat) (t : Tag), freeTag used n t ∈ used →
    ∀ k ≤ n, t + BitVec.ofNat 16 k ∈ used
  | 0, t, h, k, hk => by
    obtain rfl : k = 0 := by omega
    simpa [freeTag] using h
  | n + 1, t, h, k, hk => by
    by_cases ht : used.contains t = true
    · rw [freeTag, if_pos ht] at h
      cases k with
      | zero => simpa using ht
      | succ k =>
        have hstep : t + BitVec.ofNat 16 (k + 1) = t + 1 + BitVec.ofNat 16 k := by bv_omega
        rw [hstep]
        exact freeTag_used used n (t + 1) h k (by omega)
    · rw [freeTag, if_neg ht] at h
      exact absurd (by simpa using h) ht

/-- With more tries than tags in use, the tag found is free. -/
theorem freeTag_not_mem {used : List Tag} {n : Nat} (hn : n < 2 ^ 16) (hl : used.length < n) (t : Tag) :
    freeTag used n t ∉ used := by
  intro h
  have hmem := freeTag_used used n t h
  have hnodup : ((List.range (n + 1)).map fun k => t + BitVec.ofNat 16 k).Nodup := by
    refine List.nodup_range.map_on fun a ha b hb hab => ?_
    rw [List.mem_range] at ha hb
    have hbv := (BitVec.add_right_inj t).1 hab
    have := congrArg BitVec.toNat hbv
    simp only [BitVec.toNat_ofNat] at this
    omega
  have hsub : ((List.range (n + 1)).map fun k => t + BitVec.ofNat 16 k) ⊆ used := by
    intro x hx
    obtain ⟨k, hk, rfl⟩ := List.mem_map.1 hx
    exact hmem k (by rw [List.mem_range] at hk; omega)
  have hle := (List.subperm_of_subset hnodup hsub).length_le
  simp only [List.length_map, List.length_range] at hle
  omega

/-- A table that a record joins with a free slot and tag, covering nothing. -/
theorem TableOk.append {t : Tracker} (h : TableOk t) {x : Sheet} (hs : ∀ r ∈ t.sheets, r.slot ≠ x.slot)
    (ht : ∀ r ∈ t.sheets, r.tag ≠ x.tag) (ho : x.occupied = []) : TableOk { t with sheets := t.sheets ++ [x] } where
  slots := by
    rw [List.map_append, List.nodup_append_comm]
    simpa [h.slots] using hs
  tags := by
    rw [List.map_append, List.nodup_append_comm]
    simpa [h.tags] using ht
  lists := by
    intro r hr
    rcases List.mem_append.1 hr with hr | hr
    · exact h.lists r hr
    · rw [List.mem_singleton.1 hr, ho]; exact Nat.zero_le _
  occupants := by simpa [ho] using h.occupants

/-! ## A sheet takes a checkpoint (R59) -/

/-- In a table in order a tag names one record. -/
theorem TableOk.tag_unique {t : Tracker} (h : TableOk t) {x r : Sheet} (hx : x ∈ t.sheets) (hr : r ∈ t.sheets)
    (he : x.tag = r.tag) : x = r := List.inj_on_of_nodup_map h.tags hx hr he

/-- A table in which one record has taken a checkpoint that had no occupant. -/
theorem TableOk.matched {t : Tracker} (h : TableOk t) {r : Sheet} {c : Checkpoint} {f : Sheet → Sheet}
    (hr : r ∈ t.sheets) (hl : r.occupied.length < Config.occupiedMax)
    (hc : ∀ x ∈ t.sheets, c ∉ x.covers) (hslot : ∀ x, (f x).slot = x.slot) (htag : ∀ x, (f x).tag = x.tag)
    (ho : ∀ x, (f x).covers = x.covers ++ [c]) :
    TableOk { t with sheets := t.sheets.map fun x => if x.tag = r.tag then f x else x } := by
  have same {α : Type} (p : Sheet → α) (hp : ∀ x, p (f x) = p x) :
      (t.sheets.map fun x => if x.tag = r.tag then f x else x).map p = t.sheets.map p := by
    rw [List.map_map]
    refine List.map_congr_left fun x _ => ?_
    simp only [Function.comp_apply]
    split
    · exact hp x
    · rfl
  constructor
  case slots => rw [same _ hslot]; exact h.slots
  case tags => rw [same _ htag]; exact h.tags
  case lists =>
    simp only [List.forall_mem_map]
    intro x hx
    split
    next he =>
      have hlen := congrArg List.length (ho x)
      simp only [Sheet.covers, List.length_map, List.length_append, List.length_singleton] at hlen
      rw [h.tag_unique hx hr he] at hlen ⊢
      omega
    next => exact h.lists x hx
  case occupants =>
    have hcovers (x : Sheet) : (if x.tag = r.tag then f x else x).covers =
        if x.tag = r.tag then x.covers ++ [c] else x.covers := by
      split
      · exact ho x
      · rfl
    obtain ⟨hnodup, hdisjoint⟩ := List.nodup_flatMap.1 h.occupants
    rw [List.flatMap_map]
    refine List.nodup_flatMap.2 ⟨fun x hx => ?_, ?_⟩
    · have hn : x.covers.Nodup := hnodup x hx
      have hcx := hc x hx
      change (Sheet.covers _).Nodup
      rw [hcovers]
      split
      · exact List.nodup_append.2 ⟨hn, by simp, by simpa using fun a ha => ne_of_mem_of_not_mem ha hcx⟩
      · exact hn
    · refine (hdisjoint.and (List.pairwise_map.1 h.tags)).imp_of_mem fun {x y} hx hy hxy => ?_
      obtain ⟨hd, hne⟩ := hxy
      have hd : x.covers.Disjoint y.covers := hd
      have hcx := hc x hx
      have hcy := hc y hy
      change (Sheet.covers _).Disjoint (Sheet.covers _)
      rw [hcovers, hcovers]
      split <;> split
      next hx hy => exact absurd (hx.trans hy.symm) hne
      · simpa [List.disjoint_append_left] using ⟨hd, hcy⟩
      · simpa [List.disjoint_append_right] using ⟨hd, hcx⟩
      · exact hd

end Sys2Proof.Machine
end

section
/-!
The Sheet Tracking Table in order, kept by the rows that call, image, sense, track and admit.
-/
namespace Sys2Proof.Machine

theorem occupant_none {s : State} {c : Checkpoint} (h : s.occupant c = none) : ∀ r ∈ s.stk.sheets, c ∉ r.covers := by
  simpa [State.occupant, Sheet.covers] using h

namespace TableInOrder
variable {s : State}

/-! ### Calls, imaging and the engine's status -/

theorem tryReplay (c : CallReq) (h : TableInOrder s) : TableInOrder (tryReplay c s) := by
  unfold Machine.tryReplay
  split
  · exact h
  · exact h.raise _

theorem startPending (h : TableInOrder s) : TableInOrder (startPending s) := by
  unfold Machine.startPending
  split
  · exact h
  · exact tryReplay _ h

theorem handCall (c : CallReq) (h : TableInOrder s) : TableInOrder (handCall c s) := by
  have hr := h.tryReplay c
  unfold Machine.handCall startReplay
  dsimp only
  repeat' split
  · exact hr.startPending
  · exact hr
  · exact h.raise _
  · exact h

theorem call (t : Tag) (side : Side) (h : TableInOrder s) : TableInOrder (call t side s) := by
  unfold Machine.call
  repeat' split
  · exact h
  · exact h.handCall _
  · exact h.raise _

theorem readTransferEnd (h : TableInOrder s) : TableInOrder (readTransferEnd s) := by
  unfold Machine.readTransferEnd
  repeat' split
  · exact h.of_stk (readEndStreaming_stk _ _ _ _)
  · exact startPending h
  · exact h
  · exact h

theorem imagingDone (c : CallReq) (h : TableInOrder s) : TableInOrder (imagingDone c s) := by
  have hw : TableInOrder (watched (imagingDoneLine c.key) s) := h.of_stk (by simp)
  refine startPending (s := State.onCre _ _) ?_
  unfold imagingDoneSheet
  split
  · split
    · exact hw.updSheet fun _ _ => Sheet.within_of_same rfl rfl rfl
    · exact hw
  · exact hw

theorem bandoutSent (h : TableInOrder s) : TableInOrder (bandoutSent s) := by
  unfold Machine.bandoutSent
  dsimp only
  repeat' split
  · exact imagingDone _ h
  · exact h
  · exact h

theorem setEmpty (t : Tray) (v : Bool) (h : TableInOrder s) : TableInOrder (setEmpty t v s) := by
  unfold Machine.setEmpty
  dsimp only
  split
  · exact h
  · exact supplyReport h

theorem setFull (b : Bin) (v : Bool) (h : TableInOrder s) : TableInOrder (setFull b v s) := by
  unfold Machine.setFull
  dsimp only
  split
  · exact h
  · exact supplyReport h

theorem markStage (b : Bin) (st : Stage) (h : TableInOrder s) : TableInOrder (markStage b st s) := by
  unfold Machine.markStage
  split
  · exact h.markSuspect _
  · exact h

theorem readBinFull (b : Bin) (h : TableInOrder s) : TableInOrder (readBinFull b s) := by
  have hw : TableInOrder (watched (Machine.setFull b true) s) := (h.setFull b true).watchGate s
  have hf : TableInOrder (binFault b (watched (Machine.setFull b true) s)) := by
    unfold binFault
    split
    · exact hw
    · exact ((hw.markStage b .a).markStage b .b).raise _
  unfold Machine.readBinFull
  dsimp only
  split
  · exact hf.raise _
  · exact hw

theorem readCompileFault (b : Bin) (h : TableInOrder s) : TableInOrder (readCompileFault b s) := by
  unfold Machine.readCompileFault
  split
  · exact h.raise _
  · exact h

theorem ejectSet (b : Bin) (h : TableInOrder s) : TableInOrder (ejectSet b s) := h.of_stk (ejectSet_stk s b)

theorem receive (p : Port) (bytes : List Byte) (h : TableInOrder s) : TableInOrder (receive p bytes s) := by
  have hread (x : Status) : TableInOrder (readStatusFrame x s) := by
    cases x with
    | trayEmpty t => exact h.setEmpty t true
    | trayFilled t => exact h.setEmpty t false
    | binFull b => exact h.readBinFull b
    | binCleared b => exact h.setFull b false
    | setEjected b => exact h.ejectSet b
    | compileFault b => exact h.readCompileFault b
    | engineFault code => exact h.raise _
  unfold Machine.receive goodFrame engstat
  repeat' split
  · exact h
  · exact h
  · exact h
  · exact h.call _ _
  · exact hread _
  · exact h

/-! ### Sensing and time -/

theorem pathStill (h : TableInOrder s) : TableInOrder (pathStill s) := by
  have hhalt (u : State) (hu : TableInOrder u) : TableInOrder (completeHalt u) := by
    have hw : TableInOrder (watched (State.onStk fun k =>
        { k with path := .halted, sheets := k.sheets.map Sheet.strand }) u) := by
      refine of_stk ?_ (watched_stk u _)
      refine (hu.map (f := Sheet.strand) fun r _ => ?_).of_sheets rfl
      unfold Sheet.strand
      split <;> exact Sheet.within_of_same rfl rfl rfl
    unfold completeHalt
    dsimp only
    split
    · exact (hw.raise _).haltedReport
    · exact hw.haltedReport
  unfold Machine.pathStill
  dsimp only
  repeat' split
  · exact hhalt _ h
  · exact h
  · exact h

theorem strandOpen (h : TableInOrder s) : TableInOrder (strandOpen s) := by
  unfold Machine.strandOpen
  split
  · exact h.raise _
  · exact h

theorem coverOpen (c : Cover) (first : Bool) (h : TableInOrder s) : TableInOrder (coverOpen c first s) := by
  have hp : TableInOrder (popCoverEvent c s) := h
  unfold Machine.coverOpen
  dsimp only
  repeat' split
  · exact hp.strandOpen.raise _
  · exact (hp.raise _).strandOpen
  · exact h

theorem coverShut (c : Cover) (h : TableInOrder s) : TableInOrder (coverShut c s) := by
  unfold Machine.coverShut takeShut
  repeat' split
  · exact h
  · exact h
  · exact h

theorem coverSettleExpiry (h : TableInOrder s) : TableInOrder (coverSettleExpiry s) := by
  unfold Machine.coverSettleExpiry
  split
  · exact h.close .interlock
  · exact h

theorem countAdvance (h : TableInOrder s) : TableInOrder (countAdvance s) := by
  unfold Machine.countAdvance
  split
  · exact h
  · exact h.of_sheets rfl

/-! ### Edges -/

theorem matchLead (faults : Bool) (c : Checkpoint) (n : Count) (h : TableInOrder s) :
    TableInOrder (matchLead faults c n s) := by
  unfold Machine.matchLead
  split
  · split
    · exact h.raiseAt _ _ _
    · exact h
  next ho =>
    split
    · split
      · exact h.raiseAt _ _ _
      · exact h
    next oldest rest hf =>
      split
      next r hr =>
        have hmem : r ∈ s.stk.sheets := List.mem_of_mem_filter (hf ▸ List.mem_of_find?_eq_some hr)
        unfold matchSheet
        dsimp only
        split
        · split
          · exact h.raiseAt _ _ _
          · exact h
        next hroom =>
          have hm : TableInOrder (Machine.updSheet r.tag (Sheet.matched (s.routeOf r) c n) s) :=
            TableOk.matched h hmem (Nat.not_le.1 hroom) (occupant_none ho) (fun _ => rfl) (fun _ => rfl)
              fun x => by simp [Sheet.covers, Sheet.matched]
          split <;> exact hm
      · split
        · exact h.raiseAt _ _ _
        · exact h

theorem popEdge (c : Checkpoint) (v : Bool) (h : TableInOrder s) : TableInOrder (popEdge c v s) := h.of_sheets rfl

theorem leadEdge (c : Checkpoint) (h : TableInOrder s) : TableInOrder (leadEdge c s) := by
  have hp := h.popEdge c true
  unfold Machine.leadEdge
  dsimp only
  repeat' split
  · exact hp
  · exact hp.matchLead _ c _
  · exact h
  · exact h

theorem failJoin (b : Bin) (x : Sheet) (h : TableInOrder s) : TableInOrder (failJoin b x s) := (h.markSuspect x.tag).raise _

theorem handOver (c : Checkpoint) (r : Sheet) (h : TableInOrder s) : TableInOrder (handOver c r s) := by
  unfold Machine.handOver
  extract_lets b u
  have hu : TableInOrder u := by
    unfold u
    split
    · exact h.failJoin _ _
    · exact h
  split
  · exact hu.advanceEjection _ _
  · exact hu.raise _

theorem clearOccupied (t : Tag) (h : TableInOrder s) : TableInOrder (clearOccupied t s) :=
  h.updSheet fun _ _ => ⟨rfl, rfl, List.nil_sublist _⟩

theorem exitSheet (c : Checkpoint) (r : Sheet) (h : TableInOrder s) : TableInOrder (exitSheet c r s) := by
  have hc := h.clearOccupied r.tag
  unfold Machine.exitSheet removeAtExit
  dsimp only
  repeat' split
  · exact hc.raiseAt _ _ _
  · exact checkRunoutComplete (hc.endSheet _ _)
  · exact (hc.handOver c r).checkRunoutComplete

theorem takeTrail (faults : Bool) (c : Checkpoint) (n : Count) (h : TableInOrder s) :
    TableInOrder (takeTrail faults c n s) := by
  unfold Machine.takeTrail releaseEntry purgeSheet
  dsimp only
  split
  next r _ =>
    have hu : TableInOrder (Machine.updSheet r.tag (Sheet.trail c n) s) :=
      h.updSheet fun x _ => ⟨rfl, rfl, List.filter_sublist.map _⟩
    repeat' split
    · exact ((hu.clearOccupied _).endSheet _ _).checkRunoutComplete
    · exact hu.exitSheet c r
    · exact hu
    · exact hu
  · split
    · exact h.raiseAt _ _ _
    · exact h

theorem trailEdge (c : Checkpoint) (h : TableInOrder s) : TableInOrder (trailEdge c s) := by
  have hp := h.popEdge c false
  unfold Machine.trailEdge
  dsimp only
  repeat' split
  · exact hp
  · exact hp.takeTrail _ c _
  · exact h
  · exact h

/-! ### Deadlines and the settle timer -/

theorem popDue (h : TableInOrder s) : TableInOrder (popDue s) := h.of_sheets rfl

theorem leadWindowExpiry (h : TableInOrder s) : TableInOrder (leadWindowExpiry s) := by
  unfold Machine.leadWindowExpiry leadExpired misfeed
  dsimp only
  repeat' split
  · exact (h.popDue.endSheet _ _).raise _
  · exact h.popDue.raiseAt _ _ _
  · exact h.popDue
  · exact h

theorem trailDeadlineExpiry (h : TableInOrder s) : TableInOrder (trailDeadlineExpiry s) := by
  unfold Machine.trailDeadlineExpiry trailExpired
  repeat' split
  · exact h.popDue.raiseAt _ _ _
  · exact h.popDue
  · exact h

theorem runoutDeadlineExpiry (h : TableInOrder s) : TableInOrder (runoutDeadlineExpiry s) := by
  unfold Machine.runoutDeadlineExpiry runoutExpired
  repeat' split
  · exact ((h.popDue.endSheet _ _).absenceReport _ _ _).checkRunoutComplete
  · exact h.popDue
  · exact h

theorem settleTimerExpiry (b : Bin) (h : TableInOrder s) : TableInOrder (settleTimerExpiry b s) := by
  unfold Machine.settleTimerExpiry
  repeat' split
  · exact h.failJoin _ _
  · exact h.advanceExpiry b
  · exact h

/-! ### Orders and admission -/

theorem order (h : TableInOrder s) : TableInOrder (order s) := by
  have haccept (o : OrderBody) (u : State) (hu : TableInOrder u) : TableInOrder (acceptOrder o u) := by
    have hclaim (q : Seq) (l : List PageKey) (v : State) (hv : TableInOrder v) :
        TableInOrder (l.foldl (fun v k => claimLine q k v) v) :=
      hv.foldl l fun w k hw => hw.of_stk (claimLine_stk w q k)
    unfold acceptOrder
    dsimp only
    split <;> exact hclaim _ _ _ hu
  unfold Machine.order judgeOrder
  repeat' split
  · exact h
  · exact h
  · exact haccept _ _ h
  · exact h

/-- An admission takes a free slot and a free tag (R51, R136). -/
theorem admitGateHead (h : TableInOrder s) : TableInOrder (admitGateHead s) := by
  unfold Machine.admitGateHead
  split
  next e slot _ hslot =>
    split
    next ha =>
      have hroom : (s.stk.sheets.map (·.tag)).length < Config.sheetSlots := by
        simp only [admits, Bool.and_eq_true, decide_eq_true_eq] at ha
        simpa using ha.1.1.1.1.1.2
      have htag := freeTag_not_mem (by decide) hroom s.ogt.tagCounter
      have hadd (t : Tag) (ht : t ∉ s.stk.sheets.map (·.tag)) :=
        TableOk.append h (x := newSheet slot t e (!s.ogt.ril.isEmpty) s.ckm.tc) (freeSlot_free hslot)
          (fun r hr he => ht (List.mem_map.2 ⟨r, hr, he⟩)) rfl
      unfold openAdmission leaveList
      dsimp only
      split <;> exact hadd _ htag
    · exact h
  · exact h

end TableInOrder
end Sys2Proof.Machine
end

section
/-!
The Sheet Tracking Table in order, kept by the rows of the link and the requests, and so by every step.
-/
namespace Sys2Proof.Machine

namespace TableInOrder
variable {s : State}

/-! ### The link and the flush walk -/

theorem passUp (f : Frame) (h : TableInOrder s) : TableInOrder (s.onLi (Link.passUp f)) := h
theorem onCkm (f : Monitor → Monitor) (h : TableInOrder s) : TableInOrder (s.onCkm f) := h

theorem engcmd (h : TableInOrder s) : TableInOrder (engcmd s) := by
  unfold Machine.engcmd
  repeat' split
  all_goals exact h

theorem uFrameSent (h : TableInOrder s) : TableInOrder (uFrameSent s) := by
  unfold Machine.uFrameSent
  split <;> exact h

theorem eFrameSent (h : TableInOrder s) : TableInOrder (eFrameSent s) := by
  unfold Machine.eFrameSent
  split <;> exact h

theorem haltSent (h : TableInOrder s) : TableInOrder (haltSent s) := by
  unfold Machine.haltSent
  split
  · exact h.of_stk (abandonReplay_stk _)
  · exact h

theorem readEngineFault (code : List Byte) (h : TableInOrder s) : TableInOrder (readEngineFault code s) := h.raise _
theorem wallTick (lines : CoverLines) (h : TableInOrder s) : TableInOrder (wallTick lines s) := h

theorem engstatUnread (body : List Byte) (h : TableInOrder s) : TableInOrder (engstatUnread body s) := by
  unfold Machine.engstatUnread
  split <;> exact h

theorem flushWalkStep (h : TableInOrder s) : TableInOrder (flushWalkStep s) := by
  unfold Machine.flushWalkStep
  split
  · exact h.of_stk (walkStep_stk s _)
  · exact h

/-! ### Requests -/

/-- A table without records is in order. -/
theorem of_empty (h : s.stk.sheets = []) : TableInOrder s := by
  constructor <;> simp [h]

theorem takeRequest (wanted : Request → Bool) {act : Request → State → State} (ha : RowClosed.Owner TableInOrder act)
    (h : TableInOrder s) : TableInOrder (takeRequest wanted act s) := by
  unfold Machine.takeRequest
  dsimp only
  repeat' split
  · exact h
  · exact h
  · exact ha _ _ h
  · exact h

theorem inSetup {act : Request → State → State} (ha : RowClosed.Owner TableInOrder act) :
    RowClosed.Owner TableInOrder (inSetup act) := by
  intro q s h
  unfold Machine.inSetup
  split
  · exact h
  · exact ha q s h

theorem loadRoute : RowClosed.Owner TableInOrder loadRoute := by
  intro q s h
  unfold Machine.loadRoute
  split <;> exact h

theorem unloadRoute : RowClosed.Owner TableInOrder unloadRoute := by
  intro q s h
  unfold Machine.unloadRoute
  repeat' split
  all_goals exact h

theorem loadBin : RowClosed.Owner TableInOrder loadBin := by
  intro q s h
  unfold Machine.loadBin
  repeat' split
  all_goals exact h

theorem loadTray : RowClosed.Owner TableInOrder loadTray := by
  intro q s h
  unfold Machine.loadTray
  split <;> exact h

theorem setTiming : RowClosed.Owner TableInOrder setTiming := by
  intro q s h
  unfold Machine.setTiming
  dsimp only
  repeat' split
  all_goals exact h

theorem start : RowClosed.Owner TableInOrder start := by
  intro q s h
  have hp : TableInOrder (s.onStk fun k => { k with path := .moving }) := h.of_sheets rfl
  unfold Machine.start carryOutStart
  dsimp only
  repeat' split
  · exact h
  · exact raise _ hp
  · exact hp
  · exact h

theorem stop : RowClosed.Owner TableInOrder stop := by
  intro q s h
  unfold Machine.stop
  repeat' split
  · exact h
  · exact h.of_sheets rfl
  · exact h

theorem readStatus : RowClosed.Owner TableInOrder readStatus := fun _ _ h => h

/-- A soft reset empties the table (R15). -/
theorem resetPart : RowClosed.Owner TableInOrder resetPart := fun _ _ _ => of_empty rfl

theorem readBin : RowClosed.Owner TableInOrder readBin := by
  intro q s h
  unfold Machine.readBin
  split <;> exact h

theorem setRetentionMode : RowClosed.Owner TableInOrder setRetentionMode := by
  intro q s h
  unfold Machine.setRetentionMode
  repeat' split
  all_goals exact h

theorem inquirePage : RowClosed.Owner TableInOrder inquirePage := by
  intro q s h
  unfold Machine.inquirePage
  split <;> exact h

theorem dropPage : RowClosed.Owner TableInOrder dropPage := by
  intro q s h
  unfold Machine.dropPage dropLine
  dsimp only
  repeat' split
  all_goals exact h.of_stk (by simp [Machine.reply])

theorem flush : RowClosed.Owner TableInOrder flush := by
  intro q s h
  unfold Machine.flush
  split <;> exact h

theorem openJob : RowClosed.Owner TableInOrder openJob := by
  intro q s h
  unfold Machine.openJob
  dsimp only
  repeat' split
  all_goals exact h

theorem closeJob : RowClosed.Owner TableInOrder closeJob := by
  intro q s h
  unfold Machine.closeJob
  repeat' split
  · exact h
  · exact h.of_stk (checkDone_stk _ _)
  · exact h

theorem cancelJob : RowClosed.Owner TableInOrder cancelJob := by
  intro q s h
  have hlines (l : List Entry) (u : State) (hu : u.stk = s.stk) : (invalidateEntries l u).stk = s.stk :=
    kept_foldl (P := fun v => v.stk = s.stk) (g := fun v (e : Entry) => invalidateOwner e.seq v) (fun _ _ hv => hv) l hu
  have hset (j : JobSlot) (u : State) (hu : u.stk = s.stk) : (cancelSet j u).stk = s.stk := by
    unfold cancelSet
    dsimp only
    repeat' split
    all_goals simp [hu]
  unfold Machine.cancelJob Machine.cancel
  dsimp only
  repeat' split
  · exact h
  · exact h
  · exact h.of_stk ((checkDone_stk _ _).trans (hset _ _ (hlines _ _ (hlines _ _ rfl))))

theorem trayReady : RowClosed.Owner TableInOrder trayReady := by
  intro q s h
  have hheld (t : Tray) : TableInOrder (clearHeld t s) := by
    unfold clearHeld
    dsimp only
    repeat' split
    all_goals exact h
  unfold Machine.trayReady
  repeat' split
  · exact h
  · exact trayReadyReport (hheld _)
  · exact h

theorem confirmClear : RowClosed.Owner TableInOrder confirmClear := by
  intro q s h
  unfold Machine.confirmClear
  repeat' split
  · exact enterDispose h
  · exact h
  · exact h

end TableInOrder

/-! ### Every row -/

/-- An event that keeps the table in order keeps it so through its watch, and does nothing under PORST. -/
theorem event_tableInOrder {f : State → State} (hf : ∀ s, TableInOrder s → TableInOrder (f s)) {s t : State}
    (h : TableInOrder s) (ht : event f s = .next t) : TableInOrder t := by
  unfold event at ht
  split at ht
  · cases ht; exact h
  · cases ht; exact (hf s h).watchGate s

theorem onRequest_tableInOrder {code : Nat} {act : Request → State → State} (ha : RowClosed.Owner TableInOrder act)
    {s t : State} (h : TableInOrder s) (ht : onRequest code act s = .next t) : TableInOrder t :=
  event_tableInOrder (fun _ => TableInOrder.takeRequest _ ha) h ht

/-- Every command keeps the Sheet Tracking Table in order. -/
theorem exec_tableInOrder (c : Instr) {s t : State} (h : TableInOrder s) (ht : exec c s = .next t) : TableInOrder t := by
  have reply (q : Request) (r : ReplyCode) (b : State → List Byte) (u : State) (hu : TableInOrder u) :
      TableInOrder (reply q r (b u) u) := hu
  cases c with
  | porstAssert => cases ht; unfold assertPorst; split <;> exact h
  | porstRelease =>
    cases ht; unfold releasePorst; split
    · exact TableInOrder.of_empty rfl
    · exact h
  | writeTransferEnd =>
    change (if s.porst then _ else _) = _ at ht
    split at ht
    · cases ht; exact h
    · cases ht; exact h.of_stk (writeTransferEnd_stk s)
  | frameReceived p bytes => exact event_tableInOrder (fun _ hs => hs.receive p bytes) h ht
  | order => exact event_tableInOrder (fun _ hs => hs.order) h ht
  | band => exact event_tableInOrder (fun u hs => hs.of_stk (band_stk u)) h ht
  | engcmd => exact event_tableInOrder (fun _ hs => hs.engcmd) h ht
  | mgmtUnknownRequest => exact event_tableInOrder (fun _ hs => hs.takeRequest _ fun q => reply q _ fun _ => []) h ht
  | readStatus => exact onRequest_tableInOrder TableInOrder.readStatus h ht
  | resetPart => exact onRequest_tableInOrder TableInOrder.resetPart h ht
  | loadRoute => exact event_tableInOrder (fun _ hs => hs.takeRequest _ (.inSetup .loadRoute)) h ht
  | unloadRoute => exact event_tableInOrder (fun _ hs => hs.takeRequest _ (.inSetup .unloadRoute)) h ht
  | loadBin => exact onRequest_tableInOrder (.inSetup .loadBin) h ht
  | loadTray => exact onRequest_tableInOrder (.inSetup .loadTray) h ht
  | setTiming => exact onRequest_tableInOrder (.inSetup .setTiming) h ht
  | start => exact onRequest_tableInOrder (.inSetup .start) h ht
  | stop => exact onRequest_tableInOrder TableInOrder.stop h ht
  | readSheets => exact onRequest_tableInOrder (fun q => reply q _ _) h ht
  | readBin => exact onRequest_tableInOrder TableInOrder.readBin h ht
  | setRetentionMode => exact onRequest_tableInOrder TableInOrder.setRetentionMode h ht
  | inquirePage => exact onRequest_tableInOrder TableInOrder.inquirePage h ht
  | dropPage => exact onRequest_tableInOrder TableInOrder.dropPage h ht
  | flush => exact onRequest_tableInOrder TableInOrder.flush h ht
  | flushWalkStep => exact event_tableInOrder (fun _ hs => hs.flushWalkStep) h ht
  | openJob => exact onRequest_tableInOrder TableInOrder.openJob h ht
  | closeJob => exact onRequest_tableInOrder TableInOrder.closeJob h ht
  | cancelJob => exact onRequest_tableInOrder TableInOrder.cancelJob h ht
  | trayReady => exact onRequest_tableInOrder TableInOrder.trayReady h ht
  | readQueues => exact onRequest_tableInOrder (fun q => reply q _ _) h ht
  | readIncidents => exact onRequest_tableInOrder (fun q => reply q _ _) h ht
  | confirmClear => exact onRequest_tableInOrder TableInOrder.confirmClear h ht
  | call tag side => exact event_tableInOrder (fun _ hs => hs.call tag side) h ht
  | trayEmpty t rest => exact event_tableInOrder (fun _ hs => (hs.setEmpty t true).passUp _) h ht
  | trayFilled t rest => exact event_tableInOrder (fun _ hs => (hs.setEmpty t false).passUp _) h ht
  | binFull b rest => exact event_tableInOrder (fun _ hs => (hs.readBinFull b).passUp _) h ht
  | binCleared b rest => exact event_tableInOrder (fun _ hs => (hs.setFull b false).passUp _) h ht
  | setEjected b rest => exact event_tableInOrder (fun _ hs => (hs.ejectSet b).passUp _) h ht
  | engineFault code => exact event_tableInOrder (fun _ hs => (hs.readEngineFault code).passUp _) h ht
  | compileFault b rest => exact event_tableInOrder (fun _ hs => (hs.readCompileFault b).passUp _) h ht
  | engstatUnread body => exact event_tableInOrder (fun _ hs => hs.engstatUnread body) h ht
  | uFrameSent => exact event_tableInOrder (fun _ hs => hs.uFrameSent) h ht
  | eFrameSent => exact event_tableInOrder (fun _ hs => hs.eFrameSent) h ht
  | haltSent => exact event_tableInOrder (fun _ hs => hs.haltSent) h ht
  | bandoutSent => exact event_tableInOrder (fun _ hs => hs.bandoutSent) h ht
  | bandoutGiven => exact event_tableInOrder (fun u hs => hs.of_stk (bandoutGiven_stk u)) h ht
  | readTransferEnd => exact event_tableInOrder (fun _ hs => hs.readTransferEnd) h ht
  | leadEdge ck => exact event_tableInOrder (fun _ hs => hs.leadEdge ck) h ht
  | trailEdge ck => exact event_tableInOrder (fun _ hs => hs.trailEdge ck) h ht
  | coverOpen c first => exact event_tableInOrder (fun _ hs => hs.coverOpen c first) h ht
  | coverShut c => exact event_tableInOrder (fun _ hs => hs.coverShut c) h ht
  | tpEdge => exact event_tableInOrder (fun _ hs => hs.onCkm _) h ht
  | countAdvance => exact event_tableInOrder (fun _ hs => hs.countAdvance) h ht
  | leadWindowExpiry => exact event_tableInOrder (fun _ hs => hs.leadWindowExpiry) h ht
  | trailDeadlineExpiry => exact event_tableInOrder (fun _ hs => hs.trailDeadlineExpiry) h ht
  | runoutDeadlineExpiry => exact event_tableInOrder (fun _ hs => hs.runoutDeadlineExpiry) h ht
  | pathStill => exact event_tableInOrder (fun _ hs => hs.pathStill) h ht
  | settleTimerExpiry b => exact event_tableInOrder (fun _ hs => hs.settleTimerExpiry b) h ht
  | coverSettleExpiry => exact event_tableInOrder (fun _ hs => hs.coverSettleExpiry) h ht
  | admitGateHead => exact event_tableInOrder (fun _ hs => hs.admitGateHead) h ht
  | wallTick lines => exact event_tableInOrder (fun _ hs => hs.wallTick lines) h ht
  | checkpointSampleInstant lines => exact event_tableInOrder (fun _ hs => hs.onCkm _) h ht

end Sys2Proof.Machine

namespace Sys2Proof.Proofs
open Sys2Proof.Machine

/-- Settles O59: every row keeps the table in order, row by row; the step runs one row on the rest of the queue. -/
theorem stepKeepsTable : Obligations.StepKeepsTable := by
  unfold Obligations.StepKeepsTable
  intro s t h ht
  unfold step at ht
  split at ht
  · cases ht; exact h
  next rest _ => exact exec_tableInOrder _ (s := { s with pending := rest }) h ht

end Sys2Proof.Proofs
end

section
/-!
The end of a sheet record (R53, R139, R143, R145).
-/
namespace Sys2Proof.Machine

/-- The record out of the table, its ending counted, and the interlock that names it cleared (R53 steps 1 to 3). -/
def State.recordLeft (t : Tag) (r : Sheet) (e : Ending) (s : State) : State :=
  clearInterlock t (onJob r.job e.count (dropSheet t s))

section
variable {s : State} {t : Tag} {r : Sheet}

theorem endSheet_absent (h : s.sheet? t = none) (e : Ending) : endSheet t e s = s := by simp only [endSheet, h]

theorem endSheet_present (h : s.sheet? t = some r) (e : Ending) :
    endSheet t e s = watchGate s (checkDone r.job (reissueOrInvalidate e r (s.recordLeft t r e))) := by
  simp only [endSheet, h]
  rfl

end

theorem reissueOrInvalidate_quiet {e : Ending} {r : Sheet} (h : e.entry r = none) (s : State) :
    reissueOrInvalidate e r s = s := by simp only [reissueOrInvalidate, h]

theorem reissueOrInvalidate_reissued {e : Ending} {r : Sheet} {x : Entry} {s : State} (h : e.entry r = some x)
    (hc : s.ogt.jobs[r.job].state ≠ .cancelling) : reissueOrInvalidate e r s = reissue x s := by
  have hn : cancelling s r.job = false := decide_eq_false hc
  simp only [reissueOrInvalidate, h, hn, Bool.false_eq_true, if_false]

theorem reissueOrInvalidate_cancelled {e : Ending} {r : Sheet} {x : Entry} {s : State} (h : e.entry r = some x)
    (hc : s.ogt.jobs[r.job].state = .cancelling) : reissueOrInvalidate e r s = invalidateOwner r.seq s := by
  have hy : cancelling s r.job = true := decide_eq_true hc
  simp only [reissueOrInvalidate, h, hy, if_true]

/-- An ending leaves its job's state as it is (R143). -/
theorem recordLeft_jobState (t : Tag) (r : Sheet) (e : Ending) (s : State) :
    (s.recordLeft t r e).ogt.jobs[r.job].state = s.ogt.jobs[r.job].state := by
  have hjob : (s.recordLeft t r e).ogt.jobs[r.job] = e.count s.ogt.jobs[r.job] := upd_same _ _ _
  rw [hjob]
  cases e <;> rfl

end Sys2Proof.Machine

namespace Sys2Proof.Proofs
open Sys2Proof.Machine

/-- Settles O52: the end of a record by its ending, and for one that is reissued by its job's state. -/
theorem recordEnds : Obligations.RecordEnds := by
  unfold Obligations.RecordEnds
  refine ⟨fun s t e h => endSheet_absent h e, fun s t r e h => ?_⟩
  intro counted u entry
  have hu : s.recordLeft t r e = u := by cases e <;> rfl
  have hend := endSheet_present h e
  have hjob := recordLeft_jobState t r e s
  rw [hu] at hend hjob
  refine ⟨fun he => ?_, fun he => ?_⟩
  · have hx : e.entry r = none := by rcases he with rfl | rfl <;> rfl
    rw [hend, reissueOrInvalidate_quiet hx]
  · have hx : e.entry r = some entry := by rcases he with rfl | rfl | rfl <;> rfl
    refine ⟨fun hc => ?_, fun hc => ?_⟩
    · rw [hend, reissueOrInvalidate_reissued hx (hjob ▸ hc)]
      rfl
    · rw [hend, reissueOrInvalidate_cancelled hx (hjob ▸ hc)]
      rfl

end Sys2Proof.Proofs
end

section
/-!
A CALL (R33, R57, R67, R105, R120, R121): its check, and what the replay reader makes of one that passes.
-/
namespace Sys2Proof.Machine

theorem holdsReplay_iff (c : Capture) (t : Tag) : c.holdsReplay t = true ↔
    (∃ r l n, c.reader = .streaming r l n ∧ r.tag = t) ∨ ∃ r, c.pendingCall = some r ∧ r.tag = t := by
  unfold Capture.holdsReplay
  cases c.reader <;> cases c.pendingCall <;> simp

/-- The CALL check (R67). -/
theorem callPasses_iff (s : State) (r : Sheet) (side : Side) : callPasses s r side = true ↔
    (r.state = .admitted ∨ r.state = .moving) ∧
      (side = .front ∧ r.sides = .none ∨ side = .back ∧ r.sides = .front ∧ (s.routeOf r).duplex = true) ∧
      ¬s.cre.holdsReplay r.tag = true := by
  simp only [callPasses, Bool.and_eq_true, decide_eq_true_eq, nextSide_eq_iff, Bool.not_eq_true', Bool.not_eq_true,
    and_assoc]

theorem sheet?_tag {s : State} {t : Tag} {r : Sheet} (h : s.sheet? t = some r) : r.tag = t := by
  simpa using List.find?_some h

section
variable {s : State} {t : Tag} {side : Side}

theorem call_ignored (h : s.pds.mode = .setup ∨ s.stk.path = .halting ∨ s.stk.path = .halted) : call t side s = s :=
  if_pos h

section
variable (hm : s.pds.mode = .running) (hp : s.stk.path = .moving ∨ s.stk.path = .runningOut)
include hm hp

theorem calls_heard : ¬(s.pds.mode = .setup ∨ s.stk.path = .halting ∨ s.stk.path = .halted) := by
  rcases hp with hp | hp <;> simp [hm, hp]

theorem call_fails (h : (s.sheet? t).filter (fun r => callPasses s r side) = none) :
    call t side s = raiseJam .callFault none (some t) none s := by
  simp only [call, if_neg (calls_heard hm hp), h]

theorem call_passes {r : Sheet} (h : (s.sheet? t).filter (fun r => callPasses s r side) = some r) :
    call t side s = handCall ⟨t, side, r.snap.keyOf side⟩ s := by
  simp only [call, if_neg (calls_heard hm hp), h]

end

variable {c : CallReq}

/-- A CALL waits for a reader that is not IDLE (R120). -/
theorem handCall_waits (hr : s.cre.reader ≠ .idle) (hc : s.cre.pendingCall = none) :
    handCall c s = { s with cre := { s.cre with pendingCall := some c } } := by
  unfold handCall
  rw [if_neg hr, if_neg (by simp [hc])]
  rfl

theorem handCall_second (hr : s.cre.reader ≠ .idle) (hc : s.cre.pendingCall ≠ none) :
    handCall c s = raiseJam .callFault none (some c.tag) none s := by
  unfold handCall
  rw [if_neg hr, if_pos (Option.isSome_iff_ne_none.2 hc)]

theorem replayLine_none {d : Directory} {k : PageKey} (hr : d.stateOf k ≠ some .ready) (hl : d.stateOf k ≠ some .locked) :
    d.replayLine k = none := by
  unfold Directory.replayLine
  cases h : d.lookup k with
  | none => rfl
  | some p =>
    refine Option.filter_some_neg ?_
    simp only [Directory.stateOf, h, Option.map_some, ne_eq, Option.some.injEq] at hr hl
    simp [hr, hl]

theorem replayLine_some {d : Directory} {k : PageKey} {i : Nat} {l : Line} (h : d.lookup k = some (i, l))
    (hl : l.state = .ready ∨ l.state = .locked) : d.replayLine k = some (i, l) := by
  unfold Directory.replayLine
  rw [h]
  exact Option.filter_some_pos (decide_eq_true hl)

/-- The called side has no page: no replay starts, and no call waits to be next (R121). -/
theorem handCall_noPage (hr : s.cre.reader = .idle) (hc : s.cre.pendingCall = none) (hn : s.pgd.replayLine c.key = none) :
    handCall c s = raiseJam .callFault none (some c.tag) none s := by
  have htry : tryReplay c s = raiseJam .callFault none (some c.tag) none s := by simp only [tryReplay, hn]
  have hcre : (raiseJam .callFault none (some c.tag) none s).cre = s.cre := (closed_cre s.cre).raiseJam _ _ _ _ rfl
  unfold handCall startReplay
  dsimp only
  rw [if_pos hr, htry, hcre, if_pos hr, startPending_none (by rw [hcre, hc])]

/-- A replay starts from a READY or LOCKED line, which it touches and pins (R105, R120). -/
theorem handCall_starts (hr : s.cre.reader = .idle) {i : Nat} {l : Line} (hl : s.pgd.replayLine c.key = some (i, l)) :
    handCall c s = { s with
      pgd := (s.pgd.putWay i { l with pin := true, invalidateOnUnpin := false }).touch i
      cre := Capture.request .replay { s.cre with reader := .streaming c l.chain 0 } } := by
  have htry : tryReplay c s = request .replay ((pinLine i l s).onCre fun r =>
      { r with reader := .streaming c l.chain 0 }) := by simp only [tryReplay, hl]
  have hbusy : (tryReplay c s).cre.reader ≠ .idle := by
    rw [htry]
    simp only [request, Capture.request, onCre_cre]
    cases (pinLine i l s).cre.port <;> nofun
  unfold handCall startReplay
  rw [if_pos hr, if_neg hbusy, htry]
  rfl

end

end Sys2Proof.Machine

namespace Sys2Proof.Proofs
open Sys2Proof.Machine

/-- Settles O36: a CALL that is not heard, one that fails its check, and one that passes, by what the reader does. -/
theorem call : Obligations.Call := by
  unfold Obligations.Call
  intro s t side hawake
  refine ⟨fun h => event_unchanged (Machine.call t side) (call_ignored h), fun hm hp => ?_⟩
  intro fault held
  have hrun : exec (.call t side) s = .next (watchGate s (Machine.call t side s)) :=
    event_awake (Machine.call t side) hawake
  have faulty (h : Machine.call t side s = raiseJam .callFault none (some t) none s) : fault := by
    rw [h] at hrun
    exact hrun
  refine ⟨fun h => faulty (call_fails hm hp (by rw [h]; rfl)), fun r h => ?_⟩
  intro passes
  have hheld : s.cre.holdsReplay r.tag = true ↔ held := by rw [sheet?_tag h]; exact holdsReplay_iff s.cre t
  have hcheck : callPasses s r side = true ↔ passes := by rw [callPasses_iff, hheld]
  refine ⟨fun hn => faulty (call_fails hm hp (by
    rw [h]; exact Option.filter_some_neg (Bool.eq_false_iff.2 (mt hcheck.1 hn)))), fun hy => ?_⟩
  intro q
  have hcall : Machine.call t side s = handCall q s := call_passes hm hp (by rw [h]; exact Option.filter_some_pos (hcheck.2 hy))
  refine ⟨fun hr hc => ?_, fun hr hc => ?_, fun hr hc => ⟨fun hready hlocked => ?_, fun i l hl hs => ?_⟩⟩
  · rw [hrun, hcall, handCall_waits hr hc]
    exact congrArg Host.Outcome.next (watchGate_same rfl)
  · exact faulty (hcall.trans (handCall_second hr hc))
  · exact faulty (hcall.trans (handCall_noPage hr hc (replayLine_none hready hlocked)))
  · rw [hrun, hcall, handCall_starts hr (replayLine_some hl hs)]

end Sys2Proof.Proofs
end

section
/-!
The three deadline expiries (R61 to R63, R73), absence and divert (R75, R175, R176), run-out complete (R74, R179).
-/
namespace Sys2Proof.Machine

/-! ## The deadlines taken one by one (R61 to R63, R73) -/

section
variable {s : State}

theorem popDue_eq {x : Expiry} {rest : List Expiry} (h : s.stk.due = x :: rest) :
    popDue s = { s with stk := { s.stk with due := rest } } := by
  simp only [popDue, State.onStk, h, List.tail_cons]

theorem leadWindowExpiry_due {t : Tag} {i : Nat} {rest : List Expiry} (h : s.stk.due = .lead t i :: rest) :
    leadWindowExpiry s = leadExpired t i { s with stk := { s.stk with due := rest } } := by
  simp only [leadWindowExpiry, h, popDue_eq h]

theorem trailDeadlineExpiry_due {t : Tag} {x : Occupied} {rest : List Expiry} (h : s.stk.due = .trail t x :: rest) :
    trailDeadlineExpiry s = trailExpired t x { s with stk := { s.stk with due := rest } } := by
  simp only [trailDeadlineExpiry, h, popDue_eq h]

theorem runoutDeadlineExpiry_due {t : Tag} {n : Count} {rest : List Expiry} (h : s.stk.due = .runout t n :: rest) :
    runoutDeadlineExpiry s = runoutExpired t n { s with stk := { s.stk with due := rest } } := by
  simp only [runoutDeadlineExpiry, h, popDue_eq h]

/-- The record of a tag passes no test that the records of the tag fail. -/
theorem sheet?_filter_none {t : Tag} {p : Sheet → Bool} (h : ∀ r, s.sheet? t = some r → ¬p r = true) :
    (s.sheet? t).filter p = none :=
  Option.filter_eq_none_iff.2 fun r hr => h r hr

theorem sheet?_filter_some {t : Tag} {r : Sheet} {p : Sheet → Bool} (h : s.sheet? t = some r) (hp : p r = true) :
    (s.sheet? t).filter p = some r := by
  rw [h, Option.filter_some_pos hp]

/-- A lead window whose sheet has moved on is passed over (log 4). -/
theorem leadExpired_movedOn {t : Tag} {i : Nat}
    (h : ∀ r, s.sheet? t = some r → ¬((r.state = .admitted ∨ r.state = .moving) ∧ r.next = .step i)) :
    leadExpired t i s = s := by
  have hnone := sheet?_filter_none (p := fun r =>
    decide ((r.state = .admitted ∨ r.state = .moving) ∧ r.next = .step i)) fun r hr => by simpa using h r hr
  simp only [leadExpired, hnone]

section
variable {t : Tag} {i : Nat} {r : Sheet} (hr : s.sheet? t = some r) (hs : r.state = .admitted ∨ r.state = .moving)
  (hn : r.next = .step i)
include hr hs hn

theorem leadExpired_waiting :
    leadExpired t i s = if i = 0 then misfeed r s else raiseAt .late (stepCk (s.routeOf r) i) (some t) s := by
  have hsome := sheet?_filter_some (p := fun r =>
    decide ((r.state = .admitted ∨ r.state = .moving) ∧ r.next = .step i)) hr (decide_eq_true ⟨hs, hn⟩)
  simp only [leadExpired, hsome]

variable {st : RouteStep} (hst : (s.routeOf r).steps[i]? = some st)
include hst

theorem leadExpired_late (hi : i ≠ 0) : leadExpired t i s = raiseAt .late st.ck (some t) s := by
  rw [leadExpired_waiting hr hs hn, if_neg hi]
  simp only [stepCk, hst, Option.map_some, Option.getD_some]

theorem leadExpired_misfed (hi : i = 0) : leadExpired t i s =
    raise ⟨.misfeed, ⟨.misfeed, some st.ck, some t, none⟩, some ⟨r.seq, t, (s.routeOf r).tray, false⟩⟩
      (endSheet t .misfed s) := by
  subst hi
  rw [leadExpired_waiting hr hs hn, if_pos rfl]
  simp only [misfeed, stepCk, hst, Option.map_some, Option.getD_some, sheet?_tag hr]

end

theorem trailExpired_gone {t : Tag} {x : Occupied}
    (h : ¬∃ r, s.sheet? t = some r ∧ x ∈ r.occupied ∧ (r.state = .moving ∨ r.state = .runout)) :
    trailExpired t x s = s := by
  have hnone := sheet?_filter_none (s := s) (t := t) (p := fun r =>
    r.occupied.contains x && decide (r.state = .moving ∨ r.state = .runout)) fun r hr hp => h ⟨r, hr, by simpa using hp⟩
  simp only [trailExpired, hnone]

theorem trailExpired_held {t : Tag} {x : Occupied}
    (h : ∃ r, s.sheet? t = some r ∧ x ∈ r.occupied ∧ (r.state = .moving ∨ r.state = .runout)) :
    trailExpired t x s = raiseAt .stuck x.ck (some t) s := by
  obtain ⟨r, hr, hp⟩ := h
  have hsome := sheet?_filter_some (p := fun r =>
    r.occupied.contains x && decide (r.state = .moving ∨ r.state = .runout)) hr (by simpa using hp)
  simp only [trailExpired, hsome]

theorem runoutExpired_movedOn {t : Tag} {n : Count}
    (h : ∀ r, s.sheet? t = some r → ¬(r.state = .runout ∧ r.runoutStamp = some n)) : runoutExpired t n s = s := by
  have hnone := sheet?_filter_none (p := fun r => decide (r.state = .runout ∧ r.runoutStamp = some n))
    fun r hr => by simpa using h r hr
  simp only [runoutExpired, hnone]

theorem runoutExpired_absent {t : Tag} {n : Count} {r : Sheet} (hr : s.sheet? t = some r) (hs : r.state = .runout)
    (hn : r.runoutStamp = some n) : runoutExpired t n s = checkRunoutComplete
      (absenceReport r (s.binOf r) (cancelling s r.job) (endSheet t .removed s)) := by
  have hsome := sheet?_filter_some (p := fun r => decide (r.state = .runout ∧ r.runoutStamp = some n)) hr
    (decide_eq_true ⟨hs, hn⟩)
  simp only [runoutExpired, hsome]

/-! ## Absence and divert (R75, R175, R176) -/

theorem absenceReport_quiet {r : Sheet} {b : Bin} {cancelled : Bool}
    (h : ¬(∃ i, s.rcc.jam = some i ∧ i.status = .active ∧ i.phase = .runout) ∨ r.disposition ≠ some .deliver ∨
      cancelled = true) : absenceReport r b cancelled s = s := by
  refine if_neg fun hc => ?_
  simp only [Bool.and_eq_true, decide_eq_true_eq, Bool.not_eq_true'] at hc
  obtain ⟨⟨hrun, hd⟩, hcan⟩ := hc
  rcases h with h | h | h
  · exact h ((activeIn_iff _ _ _).1 hrun)
  · exact h hd
  · simp [h] at hcan

/-- An absence in RUNOUT diverts the later DELIVER sheets of the bin in their order, then marks the later settling ones. -/
theorem absenceReport_diverts {r : Sheet} {b : Bin} {cancelled : Bool}
    (hj : ∃ i, s.rcc.jam = some i ∧ i.status = .active ∧ i.phase = .runout) (hd : r.disposition = some .deliver)
    (hc : cancelled = false) {later : List Sheet}
    (hp : later.Perm (s.stk.sheets.filter fun x =>
      decide (x.state = .runout ∧ x.disposition = some .deliver ∧ s.binOf x = b ∧ r.seq < x.seq)))
    (hs : later.Pairwise fun x y => x.seq < y.seq) :
    absenceReport r b cancelled s = markLater b r.seq ((later.map (·.tag)).foldl divert s) := by
  have hrun : s.rcc.activeIn .jam .runout = true := (activeIn_iff _ _ _).2 hj
  unfold absenceReport
  rw [if_pos (by simp [hrun, hd, hc]), bySeq_eq hp hs]

theorem markLater_eq (b : Bin) (q : Seq) (s : State) : markLater b q s =
    ((s.stk.sheets.filter fun x => decide (x.state = .settling ∧ s.binOf x = b ∧ q < x.seq)).map (·.tag)).foldl
      (fun v x => markSuspect x v) s := by
  rw [List.foldl_map]
  rfl

theorem pastDivert_iff (rt : Route) (r : Sheet) :
    pastDivert rt r = true ↔ ∃ i, r.next = .step i ∧ rt.divertIndex + 1 < i := by
  cases h : r.next <;> simp [pastDivert, h]

section
variable {t : Tag} {r : Sheet} (hr : s.sheet? t = some r)
include hr

theorem divert_quiet (h : r.state ≠ .runout ∨ r.disposition ≠ some .deliver) : divert s t = s := by
  simp only [divert, hr]
  exact if_neg fun hc => h.elim (fun hs => hs hc.1) fun hd => hd hc.2

theorem divert_past (hs : r.state = .runout) (hd : r.disposition = some .deliver)
    (hp : pastDivert (s.routeOf r) r = true) : divert s t = markOutOfOrder t s := by
  simp only [divert, hr, hs, hd, hp, and_self, if_true]

theorem divert_turns (hs : r.state = .runout) (hd : r.disposition = some .deliver)
    (hp : pastDivert (s.routeOf r) r = false) :
    divert s t = (claimDivert (s.routeOf r) t s).onLi (Link.placeDivert t) := by
  simp only [divert, hr, hs, hd, hp, and_self, if_true, Bool.false_eq_true, if_false]

/-- In a table in order a change of the records of a tag is a change of its one record. -/
theorem updSheet_congr (h : TableOk s.stk) {f g : Sheet → Sheet} (hfg : f r = g r) : updSheet t f s = updSheet t g s := by
  have hmap : (s.stk.sheets.map fun x => if x.tag = t then f x else x) =
      s.stk.sheets.map fun x => if x.tag = t then g x else x := by
    refine List.map_congr_left fun x hx => ?_
    split
    next he =>
      rw [h.tag_unique hx (List.mem_of_find?_eq_some hr) (he.trans (sheet?_tag hr).symm), hfg]
    next => rfl
  simp only [updSheet, State.onStk, hmap]

end

/-! ## Run-out complete (R74, R179) -/

theorem checkRunoutComplete_quiet
    (h : ¬(s.stk.path = .runningOut ∧ ∀ r ∈ s.stk.sheets, r.state ≠ .runout) ∨ s.rcc.activeIn .jam .runout = false) :
    checkRunoutComplete s = s := by
  unfold checkRunoutComplete runoutCompleteReport
  rcases h with h | h
  · exact if_neg (by simpa using h)
  · rw [h, if_neg Bool.false_ne_true, ite_self]

/-- The last record out of RUNOUT: the JAM notes it and asks for a halt. -/
theorem checkRunoutComplete_halts {i : Incident} (hj : s.rcc.jam = some i) (hp : s.stk.path = .runningOut)
    (hn : ∀ r ∈ s.stk.sheets, r.state ≠ .runout) (ha : i.status = .active) (hr : i.phase = .runout) :
    checkRunoutComplete s = { s with
      rcc := { s.rcc with jam := some { i with runoutDone := true } }
      stk := { s.stk with path := .halting }
      li := s.li.placeHalt } := by
  have hrun : s.rcc.activeIn .jam .runout = true := (activeIn_iff _ _ _).2 ⟨i, hj, ha, hr⟩
  have hdone : onIncident .jam (fun i => { i with runoutDone := true }) s =
      { s with rcc := { s.rcc with jam := some { i with runoutDone := true } } } := by
    simp only [onIncident, State.onRcc, Recovery.get, Recovery.set, hj, Option.map_some]
  unfold checkRunoutComplete runoutCompleteReport
  rw [if_pos ⟨hp, by simpa using hn⟩, if_pos hrun, hdone]
  simp only [requestHalt, hp]
  rfl

end

end Sys2Proof.Machine

namespace Sys2Proof.Proofs
open Sys2Proof.Machine

/-- Settles O50: each expiry by whether its sheet has moved on, then the absence, the divert and the end of a run-out. -/
theorem deadlines : Obligations.Deadlines := by
  unfold Obligations.Deadlines
  refine ⟨?lead, ?trail, ?runout, ?absence, ?divert, ?complete⟩
  case lead =>
    intro s t i rest hp hdue u
    have hquiet : watchGate s u = u := watchGate_same rfl
    have hrun : exec .leadWindowExpiry s = .next (watchGate s (leadExpired t i u)) := by
      rw [← leadWindowExpiry_due hdue]; exact event_awake leadWindowExpiry hp
    refine ⟨fun h => ?_, fun r hr hs hn => ⟨fun st hst hi => ?_, fun st hst hi => ?_⟩⟩
    · rw [hrun, leadExpired_movedOn (s := u) h, hquiet]
    · rw [hrun, leadExpired_late (s := u) hr hs hn hst hi]
    · subst hi
      rw [hrun, leadExpired_misfed (s := u) hr hs hn hst rfl]
      rfl
  case trail =>
    intro s t x rest hp hdue u holds
    have hquiet : watchGate s u = u := watchGate_same rfl
    have hrun : exec .trailDeadlineExpiry s = .next (watchGate s (trailExpired t x u)) := by
      rw [← trailDeadlineExpiry_due hdue]; exact event_awake trailDeadlineExpiry hp
    refine ⟨fun h => ?_, fun h => ?_⟩
    · rw [hrun, trailExpired_gone (s := u) h, hquiet]
    · rw [hrun, trailExpired_held (s := u) h]
  case runout =>
    intro s t x rest hp hdue u
    have hquiet : watchGate s u = u := watchGate_same rfl
    have hrun : exec .runoutDeadlineExpiry s = .next (watchGate s (runoutExpired t x u)) := by
      rw [← runoutDeadlineExpiry_due hdue]; exact event_awake runoutDeadlineExpiry hp
    refine ⟨fun h => ?_, fun r hr hs hn => ?_⟩
    · rw [hrun, runoutExpired_movedOn (s := u) h, hquiet]
    · rw [hrun, runoutExpired_absent (s := u) hr hs hn]
      rfl
  case absence =>
    intro s r b cancelled running
    refine ⟨absenceReport_quiet, fun hj hd hc later hp hs => ?_⟩
    intro t
    rw [absenceReport_diverts hj hd hc hp hs, markLater_eq]
  case divert =>
    intro s t r htable hr past course put
    have hpast : pastDivert (s.routeOf r) r = true ↔ past := pastDivert_iff _ _
    have hcourse : purgeCourse (s.routeOf r) r.next = course := by
      cases hn : r.next <;> simp only [purgeCourse, course, hn]
    refine ⟨divert_quiet hr, fun hs hd hp => ?_, fun hs hd hp => ?_⟩
    · rw [divert_past hr hs hd (hpast.2 hp)]
      exact updSheet_congr hr htable (if_pos hs)
    · have hnot := Bool.eq_false_iff.2 (mt hpast.1 hp)
      have hclaim : claimDivert (s.routeOf r) t s =
          put fun x => { x with disposition := some .purge, next := course } :=
        updSheet_congr hr htable ((if_pos ⟨hs, hd, hnot⟩).trans (by rw [hcourse]))
      rw [divert_turns hr hs hd hnot, hclaim]
      rfl
  case complete =>
    intro s finished
    exact ⟨checkRunoutComplete_quiet, fun i hj ⟨hp, hn⟩ => checkRunoutComplete_halts hj hp hn⟩

end Sys2Proof.Proofs
end

section
/-!
The reading requests (R76, R93, R110, R147, R161) and the bodies of their replies (R50, R185).
-/
namespace Sys2Proof.Machine

theorem sheetsReply_eq (s : State) : sheetsReply s =
    num1 s.stk.path.code ++ num1 s.stk.sheets.length ++ s.stk.sheets.flatMap sheetBytes ++ count4 s.ckm.tc := by
  simp only [sheetsReply, listed, List.append_assoc]

theorem readBin_names {q : Request} {b : Bin} (h : b.val = byteAt q.body 3) (s : State) :
    readBin q s = s.replied q .done (binReply s b) := by
  simp only [readBin, index?_eq_some h]
  rfl

theorem readBin_none {q : Request} (h : 6 ≤ byteAt q.body 3) (s : State) :
    readBin q s = s.replied q .refusedInvalid [] := by
  simp only [readBin, index?_eq_none h]
  rfl

theorem inquirePage_names {q : Request} {j : JobSlot} (h : j.val = byteAt q.body 3) (s : State) :
    inquirePage q s = s.replied q .done (pageReply s ⟨j, pageAt q.body 4⟩) := by
  simp only [inquirePage, keyAt, index?_eq_some h, Option.map_some]
  rfl

theorem inquirePage_none {q : Request} (h : 8 ≤ byteAt q.body 3) (s : State) :
    inquirePage q s = s.replied q .refusedInvalid [] := by
  simp only [inquirePage, keyAt, index?_eq_none h, Option.map_none]
  rfl

/-! ### Bodies, field by field (R185) -/

theorem opt_none {α : Type} (f : α → List Byte) : opt f none = [0] := rfl
theorem opt_some {α : Type} (f : α → List Byte) (a : α) : opt f (some a) = 1 :: f a := rfl

/-- A tray's state is HELD before EMPTY (R141). -/
theorem trayState_code (t : TrayFlags) : t.state.code = if t.held then 2 else if t.empty then 1 else 0 := by
  cases hh : t.held <;> cases he : t.empty <;> simp [TrayFlags.state, TrayState.code, hh, he]

/-- The list that holds the gate head (R135). -/
theorem headList_eq (g : Gate) : headList g = if g.ril ≠ [] then 1 else if g.orq ≠ [] then 2 else 0 := by
  unfold headList
  split
  next h => rw [h, if_pos (List.cons_ne_nil _ _)]
  next h h' => rw [h, h', if_neg (not_not.2 rfl), if_pos (List.cons_ne_nil _ _)]
  next h h' => rw [h, h', if_neg (not_not.2 rfl), if_neg (not_not.2 rfl)]

end Sys2Proof.Machine

namespace Sys2Proof.Proofs
open Sys2Proof.Machine

/-- Settles O20: the five rows, then the bodies field by field. -/
theorem readRequests : Obligations.ReadRequests := by
  unfold Obligations.ReadRequests
  refine ⟨?rows, fun r => rfl, fun n => ⟨mediaByte n.media, fun h => if_pos h, rfl⟩, fun s b => rfl, ?page, ?queues,
    ?incidents⟩
  case rows =>
    intro s q rest h
    refine ⟨fun hc hn => ?_, fun hc hn => ?_, fun hc hn => ?_, fun hc hn => ?_, fun hc hn => ?_⟩
    · have hl := requestLengthOk_of_row (c := .readSheets) (by simp [requestRows]) hc hn
      rw [← sheetsReply_eq]
      exact event_answered h (decide_eq_true hc) hl rfl rfl
    · have hl := requestLengthOk_of_row (c := .readBin) (by simp [requestRows]) hc hn
      exact ⟨fun b hb => event_answered h (decide_eq_true hc) hl (readBin_names hb _) rfl,
        fun hb => event_answered h (decide_eq_true hc) hl (readBin_none hb _) rfl⟩
    · have hl := requestLengthOk_of_row (c := .inquirePage) (by simp [requestRows]) hc hn
      exact ⟨fun j hj => event_answered h (decide_eq_true hc) hl (inquirePage_names hj _) rfl,
        fun hj => event_answered h (decide_eq_true hc) hl (inquirePage_none hj _) rfl⟩
    · have hl := requestLengthOk_of_row (c := .readQueues) (by simp [requestRows]) hc hn
      exact event_answered h (decide_eq_true hc) hl rfl rfl
    · have hl := requestLengthOk_of_row (c := .readIncidents) (by simp [requestRows]) hc hn
      exact event_answered h (decide_eq_true hc) hl rfl rfl
  case page =>
    intro s k tail
    refine ⟨fun h => ?_, fun i l h => ?_⟩
    · simp only [pageReply, h, opt_none, tail, List.append_assoc, List.cons_append, List.nil_append]
    · intro settling
      have hs : (l.owner.map s.settling).getD false = settling := by
        cases ho : l.owner <;> simp only [settling, ho] <;> rfl
      simp only [pageReply, h, opt_some, lineBytes, hs, tail, Config.ways, List.append_assoc, List.cons_append]
  case queues =>
    intro s entry reissued job tray source
    have htray : trayBytes = tray := by
      funext t
      simp only [trayBytes, tray, trayState_code]
    have hsource : headList s.ogt = source := headList_eq s.ogt
    simp only [queuesReply, htray, hsource]
    rfl
  case incidents =>
    intro s details record class'
    have hrecord (c : IncClass) : incidentBytes c = record c := by
      funext i
      cases c with
      | interlock | jam | supply => simp [incidentBytes, record, details]
      | misfeed => cases hm : i.misfeed <;> simp [incidentBytes, record, details, misfeedBytes, hm]
    have hclass (c : IncClass) :
        num1 (IncStatus.code (s.rcc.statusOf c)) ++ opt (incidentBytes c) (s.rcc.get c) = class' c := by
      rw [hrecord]
      match h : s.rcc.statusOf c with
      | none | some .pending | some .active | some .preempted => simp only [class', h, IncStatus.code]
    simp only [incidentsReply, hclass, IncClass.all, List.flatMap_cons, List.flatMap_nil, List.append_nil,
      List.append_assoc]

end Sys2Proof.Proofs
end

section
/-!
The Delivery Unit (R78 to R91, R107, R108, R134): lines that change together, the join test and the Open Set Record, what
leaves a Settle Queue and how it advances, SET EJECTED and the set purge.
-/
namespace Sys2Proof.Machine

/-! ## Lines that change together (R107, R108) -/

theorem Line.enter_of_ne {st : LineState} {l : Line} (h : l.state ≠ st) (cls : Retention) :
    l.enter st cls = { l with state := st, cls := cls } := if_neg h

theorem Line.release_of_ne {l : Line} (h : l.state ≠ .released) (cls : Retention) :
    l.release cls = { l with state := .released, cls := cls, owner := none, setTag := none } := by
  rw [Line.release, Line.enter_of_ne h]

theorem onPgd_mapLines_congr {f g : Line → Line} (h : ∀ l, f l = g l) (s : State) :
    s.onPgd (Directory.mapLines f) = s.onPgd (Directory.mapLines g) := by rw [funext h]

theorem releaseOwner_eq (q : Seq) (s : State) :
    releaseOwner q s = s.onPgd (Directory.mapLines fun l =>
      if l.state = .locked ∧ l.owner = some q then
        { l with state := .released, cls := effectiveClass s l.key, owner := none, setTag := none }
      else l) := by
  refine onPgd_mapLines_congr (fun l => ?_) s
  refine ite_congr rfl (fun hl => ?_) fun _ => rfl
  rw [Line.release_of_ne (by simp [hl.1])]

theorem compileOwner_eq (q : Seq) (t : SetTag) (guarded : Bool) (s : State) :
    compileOwner q t guarded s = s.onPgd (Directory.mapLines fun l =>
      if l.state = .locked ∧ l.owner = some q then
        if effectiveClass s l.key = .full ∧ guarded = true then
          { l with state := .setheld, cls := .full, setTag := some t }
        else { l with state := .released, cls := effectiveClass s l.key, owner := none, setTag := none }
      else l) := by
  refine onPgd_mapLines_congr (fun l => ?_) s
  refine ite_congr rfl (fun hl => ?_) fun _ => rfl
  refine ite_congr rfl (fun hfull => ?_) fun _ => ?_
  · rw [Line.enter_of_ne (by simp [hl.1]), hfull.1]
  · rw [Line.release_of_ne (by simp [hl.1])]

theorem releaseSet_eq (t : SetTag) (s : State) :
    releaseSet t s = s.onPgd (Directory.mapLines fun l =>
      if l.state = .setheld ∧ l.setTag = some t then
        { l with state := .released, cls := effectiveClass s l.key, owner := none, setTag := none }
      else l) := by
  refine onPgd_mapLines_congr (fun l => ?_) s
  refine ite_congr rfl (fun hl => ?_) fun _ => rfl
  rw [Line.release_of_ne (by simp [hl.1])]

theorem relockSet_eq (t : SetTag) (s : State) :
    relockSet t s = s.onPgd (Directory.mapLines fun l =>
      if l.state = .setheld ∧ l.setTag = some t then
        { l with state := .locked, cls := effectiveClass s l.key, setTag := none }
      else l) := by
  refine onPgd_mapLines_congr (fun l => ?_) s
  refine ite_congr rfl (fun hl => ?_) fun _ => rfl
  rw [Line.enter_of_ne (by simp [hl.1])]

/-! ## The stages of a Settle Queue (R77, R83) -/

section
variable {s : State} {b : Bin}

theorem staged_mem {st : Stage} {x : Sheet} (h : s.staged b st = some x) : x ∈ s.stk.sheets := List.mem_of_find?_eq_some h

theorem staged_place {st : Stage} {x : Sheet} (h : s.staged b st = some x) :
    x.state = .settling ∧ x.stage = some st ∧ s.binOf x = b := by simpa using List.find?_some h

theorem sheet?_of_mem (ht : TableOk s.stk) {x : Sheet} (hx : x ∈ s.stk.sheets) : s.sheet? x.tag = some x := by
  cases h : s.sheet? x.tag with
  | none => exact absurd (List.find?_eq_none.1 h x hx) (by simp)
  | some y => rw [ht.tag_unique (List.mem_of_find?_eq_some h) hx (sheet?_tag h)]

/-- A change of records that moves none keeps the stages, and shows in them. -/
theorem staged_updSheet (t : Tag) {f : Sheet → Sheet} (st : Stage) (hstate : ∀ r, (f r).state = r.state)
    (hstage : ∀ r, (f r).stage = r.stage) (hsnap : ∀ r, (f r).snap = r.snap) :
    (updSheet t f s).staged b st = (s.staged b st).map fun r => if r.tag = t then f r else r := by
  have hplace : ∀ r, (updSheet t f s).binOf (f r) = s.binOf r := fun r =>
    congrArg (fun n : Snapshot => (s.route n.route).bin) (hsnap r)
  have hsheets : (updSheet t f s).stk.sheets = s.stk.sheets.map fun r => if r.tag = t then f r else r := rfl
  simp only [State.staged, hsheets, List.find?_map]
  congr 2
  funext r
  by_cases hr : r.tag = t
  · simp only [Function.comp, hr, if_true, hstate, hstage, hplace]
  · simp only [Function.comp, hr, if_false]
    rfl

theorem frozen_of_suspect {st : Stage} {x : Sheet} (h : s.staged b st = some x) (hx : x.suspect = true) :
    s.frozen b = true := by
  cases st <;> simp [State.frozen, h, hx]

/-- A settling sheet that is marked suspect freezes its queue (R83). -/
theorem markSuspect_frozen (ht : TableOk s.stk) {st : Stage} {x : Sheet} (h : s.staged b st = some x) :
    (markSuspect x.tag s).frozen b = true := by
  have hmark : markSuspect x.tag s = setTimer (s.binOf x) none (updSheet x.tag (fun r => { r with suspect := true }) s) := by
    simp only [markSuspect, sheet?_of_mem ht (staged_mem h), (staged_place h).1, if_true]
  have hupd := staged_updSheet (s := s) (b := b) x.tag (f := fun r => { r with suspect := true }) st (fun _ => rfl)
    (fun _ => rfl) fun _ => rfl
  rw [h, Option.map_some, if_pos rfl] at hupd
  rw [hmark]
  exact frozen_of_suspect hupd rfl

theorem queueEmpty_iff : s.queueEmpty b = true ↔ s.staged b .a = none ∧ s.staged b .b = none := by
  simp [State.queueEmpty]

/-! ## The join test (R82) -/

theorem joinTest_eq_false {x : Sheet} : joinTest b x s = false ↔
    ∃ o, s.dlu.openSet = some o ∧ ¬(o.bin = b ∧ o.job = x.job ∧ o.set = x.setNumber ∧ o.endCompiled = false) := by
  cases h : s.dlu.openSet with
  | none => simp [joinTest, h]
  | some o =>
    have hand : joinTest b x s = decide (o.bin = b ∧ o.job = x.job ∧ o.set = x.setNumber ∧ o.endCompiled = false) := by
      simp only [joinTest, h, Bool.decide_and, Bool.and_assoc, Bool.decide_eq_false]
    simp only [hand, decide_eq_false_iff_not, Option.some.injEq, exists_eq_left']

theorem joinFailure_iff {x : Sheet} : joinFailure b s = some x ↔
    isCompile s b = true ∧ s.frozen b = false ∧ s.staged b .b = some x ∧
      ∃ o, s.dlu.openSet = some o ∧ ¬(o.bin = b ∧ o.job = x.job ∧ o.set = x.setNumber ∧ o.endCompiled = false) := by
  rw [← joinTest_eq_false]
  by_cases hc : isCompile s b = true ∧ s.frozen b = false
  · simp [joinFailure, hc, Option.filter_eq_some_iff]
  · have hnone : joinFailure b s = none := if_neg (by simpa using hc)
    rw [hnone]
    exact ⟨by simp, fun h => absurd ⟨h.1, h.2.1⟩ hc⟩

theorem joinFailure_frozen (h : s.frozen b = true) : joinFailure b s = none := by simp [joinFailure, h]

/-! ## The hand-over (R78, R79) -/

variable {c : Checkpoint} {r : Sheet}

theorem exitPasses_iff {q : Seq} : exitPasses s b q = true ↔ s.frozen b = false ∧ s.highMark b < q := by
  simp [exitPasses]

theorem handOver_refused (hj : joinFailure (s.binOf r) s = none)
    (h : s.frozen (s.binOf r) = true ∨ r.seq ≤ s.highMark (s.binOf r)) :
    handOver c r s = raiseJam .sequence (some c) (some r.tag) none s := by
  simp only [handOver, hj]
  refine if_neg fun he => ?_
  obtain ⟨hf, hq⟩ := exitPasses_iff.1 he
  rcases h with h | h
  · simp [hf] at h
  · exact Nat.not_lt.2 h hq

theorem handOver_advances (hj : joinFailure (s.binOf r) s = none) (hf : s.frozen (s.binOf r) = false)
    (hq : s.highMark (s.binOf r) < r.seq) : handOver c r s = advanceEjection (s.binOf r) r.tag s := by
  simp only [handOver, hj]
  exact if_pos (exitPasses_iff.2 ⟨hf, hq⟩)

theorem handOver_failed {x : Sheet} (hj : joinFailure (s.binOf r) s = some x)
    (hf : (failJoin (s.binOf r) x s).frozen (s.binOf r) = true) :
    handOver c r s = raiseJam .sequence (some c) (some r.tag) none (failJoin (s.binOf r) x s) := by
  simp only [handOver, hj]
  rw [if_neg (by simp [exitPasses_iff, hf])]

/-! ## Leaving stage B (R81, R82) -/

theorem leaveB_empty (h : s.staged b .b = none) : leaveB b s = s := by simp only [leaveB, h]

theorem leaveB_plain (h : s.staged b .b = some r) (hc : isCompile s b = false) : leaveB b s = deliver b r s := by
  simp only [leaveB, h, hc, Bool.false_eq_true, if_false]

theorem leaveB_compile (h : s.staged b .b = some r) (hc : isCompile s b = true) : leaveB b s = compile b r s := by
  simp only [leaveB, h, hc, if_true]

/-! ## The Open Set Record (R86 to R88) -/

theorem loseProtection_own {o : OpenSet} (h : s.dlu.openSet = some o) (hg : o.guarded.isSome) :
    loseProtection ⟨o.job, o.set⟩ s =
      releaseSet ⟨o.job, o.set⟩ (s.onDlu fun d => { d with openSet := some { o with guarded := none } }) := by
  simp only [loseProtection, h, hg, and_self, if_true]

theorem joinSet_starts (h : s.dlu.openSet = none) :
    joinSet b r s = s.onDlu fun d => { d with openSet := some (startSet b r s.dlu.bins[b].lastDelivered) } := by
  simp only [joinSet, h]

/-- The set of the Open Set Record once a sheet has joined it, but for its protected list (R87). -/
def OpenSet.joined (o : OpenSet) (r : Sheet) : OpenSet :=
  { o with last := r.seq, count := o.count + 1, endCompiled := o.endCompiled || r.setEnd }

section
variable {o : OpenSet} (h : s.dlu.openSet = some o)
include h

theorem joinSet_unprotected (hg : o.guarded = none) :
    joinSet b r s = s.onDlu fun d => { d with openSet := some (o.joined r) } := by
  simp only [joinSet, h, hg, OpenSet.joined]

theorem joinSet_fits {l : List Protected} (hg : o.guarded = some l) (hl : l.length < s.pds.timing.setProtection) :
    joinSet b r s = s.onDlu fun d =>
      { d with openSet := some { o.joined r with guarded := some (l ++ [⟨r.seq, r.job, r.snap⟩]) } } := by
  simp only [joinSet, h, hg, hl, if_true, OpenSet.joined]

/-- A set that would outgrow the limit loses its protection, and its SETHELD lines are RELEASED (R88). -/
theorem joinSet_outgrows {l : List Protected} (hg : o.guarded = some l) (hl : s.pds.timing.setProtection ≤ l.length) :
    joinSet b r s = releaseSet ⟨o.job, o.set⟩
      (s.onDlu fun d => { d with openSet := some { o.joined r with guarded := none } }) := by
  have hlose := loseProtection_own (s := s.onDlu fun d => { d with openSet := some (o.joined r) }) (o := o.joined r) rfl
    (Option.isSome_of_eq_some hg)
  simp only [joinSet, h, hg, Nat.not_lt.2 hl, if_false]
  rw [OpenSet.joined, hg] at hlose
  exact hlose

end

/-! ## The settle timer (R80, R82) -/

theorem settleTimerExpiry_quiet (h : s.dlu.bins[b].timer ≠ some 0 ∨ s.frozen b = true) : settleTimerExpiry b s = s :=
  if_neg fun hc => h.elim (fun ht => ht hc.1) fun hf => by simp [hf] at hc

section
variable (ht : s.dlu.bins[b].timer = some 0) (hf : s.frozen b = false)
include ht hf

theorem settleTimerExpiry_fails {x : Sheet} (hx : joinFailure b s = some x) : settleTimerExpiry b s = failJoin b x s := by
  simp only [settleTimerExpiry, ht, hf, and_self, if_true, hx]

theorem settleTimerExpiry_advances (hn : joinFailure b s = none) : settleTimerExpiry b s = advanceExpiry b s := by
  simp only [settleTimerExpiry, ht, hf, and_self, if_true, hn]

end

theorem advanceExpiry_empties (ha : (shiftA b (leaveB b s)).staged b .a = none)
    (hb : (shiftA b (leaveB b s)).staged b .b = none) :
    advanceExpiry b s = setTimer b none (shiftA b (leaveB b s)) := if_pos (queueEmpty_iff.2 ⟨ha, hb⟩)

theorem advanceExpiry_restarts
    (h : ((shiftA b (leaveB b s)).staged b .a).isSome ∨ ((shiftA b (leaveB b s)).staged b .b).isSome) :
    advanceExpiry b s = setTimer b (some s.pds.timing.settleMs) (shiftA b (leaveB b s)) := by
  have hpds : (shiftA b (leaveB b s)).pds = s.pds := (closed_pds s.pds).shiftA b ((closed_pds s.pds).leaveB b rfl)
  refine (if_neg fun he => ?_).trans (by rw [restartTimer, hpds])
  obtain ⟨ha, hb⟩ := queueEmpty_iff.1 he
  simp [ha, hb] at h

/-! ## SET EJECTED (R89) -/

theorem checkDone_pgd (j : JobSlot) (s : State) : (checkDone j s).pgd = s.pgd := by
  unfold checkDone; dsimp only; split <;> rfl

theorem checkDone_dlu (j : JobSlot) (s : State) : (checkDone j s).dlu = s.dlu := by
  unfold checkDone; dsimp only; split <;> rfl

theorem ejectSet_none (h : s.dlu.openSet = none) : ejectSet b s = s := by simp only [ejectSet, h]

section
variable {o : OpenSet} (h : s.dlu.openSet = some o)
include h

theorem ejectSet_other (hb : o.bin ≠ b) : ejectSet b s = s := by simp only [ejectSet, h, hb, if_false]

/-- The set of the bin is delivered: its job is counted, its lines are RELEASED, the record empties (R89, R108, R145). -/
theorem ejectSet_own (hb : o.bin = b) {done : State}
    (hd : checkDone o.job
      (onJob o.job (fun j => { j with set := j.set - o.count, delivered := j.delivered + o.count }) s) = done) :
    ejectSet b s = { releaseSet ⟨o.job, o.set⟩ done with
      dlu := ⟨upd s.dlu.bins b fun x => { x with lastDelivered := o.last }, none⟩ } := by
  have hdlu : done.dlu = s.dlu := by rw [← hd, checkDone_dlu]; rfl
  simp only [ejectSet, h, hb, if_true, hd]
  simp only [setLastDelivered, onBin, State.onDlu, releaseSet, onPgd_dlu, hdlu]

end

/-! ## The set purge (R90, R91, R134) -/

theorem upd_upd {α : Type} {n : Nat} (v : Vector α n) (i : Fin n) (f g : α → α) :
    upd (upd v i f) i g = upd v i fun x => g (f x) := by
  have hsame : (upd v i f)[i] = f v[i] := upd_same v i f
  rw [upd, hsame]
  simp [upd]

theorem insertEntry_between (e : Entry) {before after : List Entry} (hb : ∀ x ∈ before, x.seq ≤ e.seq)
    (ha : ∀ x xs, after = x :: xs → e.seq < x.seq) : insertEntry e (before ++ after) = before ++ e :: after := by
  induction before with
  | nil =>
    cases after with
    | nil => rfl
    | cons x xs => exact if_pos (ha x xs rfl)
  | cons x xs ih =>
    have hle := hb x List.mem_cons_self
    have hrest := ih fun y hy => hb y (List.mem_cons_of_mem x hy)
    exact (if_neg (Nat.not_lt.2 hle)).trans (congrArg (x :: ·) hrest)

theorem reissueProtected_eq (p : Protected) (s : State) :
    reissueProtected p s = watchGate s { s with ogt := { s.ogt with
      ril := insertEntry ⟨p.seq, p.job, p.snap, false, some .set, 0⟩ s.ogt.ril
      jobs := upd s.ogt.jobs p.job fun b => { b with set := b.set - 1, ril := b.ril + 1 } } } := by
  simp only [reissueProtected, watched, reissue, onJob, State.onOgt, upd_upd]

theorem purgeStage_empty {st : Stage} (h : s.staged b st = none) : purgeStage b st s = (s, []) := by
  simp only [purgeStage, h]

theorem purgeStage_holds {st : Stage} (h : s.staged b st = some r) :
    purgeStage b st s = (removeSettling r.tag s, [(r.tag, r.seq)]) := by simp only [purgeStage, h]

theorem purgeQueue_absent (h : compileBin s = none) : purgeQueue s = (s, []) := by simp only [purgeQueue, h]

theorem purgeQueue_compile (h : compileBin s = some b) : purgeQueue s =
    ((purgeStage b .a (purgeStage b .b s).1).1, (purgeStage b .b s).2 ++ (purgeStage b .a (purgeStage b .b s).1).2) := by
  simp only [purgeQueue, h]

theorem purgeSet_none (h : s.dlu.openSet = none) : purgeSet s = s := by simp only [purgeSet, h]

/-- The reissue of a set's snapshots leaves the lines and the bins as they are. -/
theorem reissueProtected_foldl (l : List Protected) (s : State) :
    (l.foldl (fun u p => reissueProtected p u) s).pgd = s.pgd ∧
      (l.foldl (fun u p => reissueProtected p u) s).dlu = s.dlu := by
  refine kept_foldl (P := fun u => u.pgd = s.pgd ∧ u.dlu = s.dlu) (fun u p hu => ?_) l ⟨rfl, rfl⟩
  have hw := watchGate_watched u (reissue ⟨p.seq, p.job, p.snap, false, some .set, 0⟩
    (onJob p.job (fun j => { j with set := j.set - 1 }) u))
  exact ⟨hw.pgd.trans hu.1, hw.dlu.trans hu.2⟩

section
variable {o : OpenSet} (h : s.dlu.openSet = some o)
include h

/-- A protected set: its snapshots are reissued, its lines LOCKED again, and the bin's order rolls back (R90, R108). -/
theorem purgeSet_protected {l : List Protected} (hg : o.guarded = some l) {entered locked : State}
    (he : l.foldl (fun u p => reissueProtected p u) s = entered)
    (hl : watchGate entered (relockSet ⟨o.job, o.set⟩ entered) = locked) :
    purgeSet s =
      { locked with dlu := ⟨upd s.dlu.bins o.bin fun x => { x with lastDelivered := o.before }, none⟩ } := by
  have hdlu : locked.dlu = s.dlu := by
    rw [← hl, (watchGate_watched _ _).dlu]
    exact he ▸ (reissueProtected_foldl l s).2
  simp only [purgeSet, h, hg, he, watched, hl, setLastDelivered, onBin, State.onDlu, hdlu]

/-- An unprotected set: it is counted as removed, its lines are RELEASED, and its loss is posted (R91, R108). -/
theorem purgeSet_lost (hg : o.guarded = none) {counted freed : State}
    (hc : checkDone o.job
      (onJob o.job (fun j => { j with set := j.set - o.count, removed := j.removed + o.count }) s) = counted)
    (hf : watchGate counted (releaseSet ⟨o.job, o.set⟩ counted) = freed) :
    purgeSet s = { post (.setLost o.job o.set) freed with dlu := { s.dlu with openSet := none } } := by
  have hdlu : (post (.setLost o.job o.set) freed).dlu = s.dlu := by
    rw [post, onLi_dlu, ← hf, (watchGate_watched _ _).dlu, releaseSet, onPgd_dlu, ← hc, checkDone_dlu]
    rfl
  simp only [purgeSet, h, hg, hc, watched, hf, State.onDlu, hdlu]

end

end
end Sys2Proof.Machine

namespace Sys2Proof.Proofs
open Sys2Proof.Machine

/-- Settles O51: no expired timer or a frozen queue, a failed join test, and the two ends of an advance. -/
theorem settleTimerExpiry : Obligations.SettleTimerExpiry := by
  unfold Obligations.SettleTimerExpiry
  intro s b hp
  refine ⟨fun h => event_unchanged _ (settleTimerExpiry_quiet h), fun ht hf => ?_⟩
  have hrun : exec (.settleTimerExpiry b) s = .next (watchGate s (Machine.settleTimerExpiry b s)) :=
    event_awake (Machine.settleTimerExpiry b) hp
  rw [hrun]
  refine ⟨fun x hx => ?_, fun hn => ⟨fun ha hb => ?_, fun h => ?_⟩⟩
  · rw [settleTimerExpiry_fails ht hf hx]
    rfl
  · rw [settleTimerExpiry_advances ht hf hn, advanceExpiry_empties ha hb]
    rfl
  · rw [settleTimerExpiry_advances ht hf hn, advanceExpiry_restarts h]
    rfl

/-- Settles O49: lines that change together, the hand-over, leaving stage B, the Open Set Record and the join test. -/
theorem handOver : Obligations.HandOver := by
  unfold Obligations.HandOver
  refine ⟨fun s q t guarded => ⟨releaseOwner_eq q s, compileOwner_eq q t guarded s⟩, ?handed,
    fun s b => ⟨leaveB_empty, fun r h hc => leaveB_plain h hc⟩, fun s b r h hc => leaveB_compile h hc, ?joins,
    fun s b x => joinFailure_iff⟩
  case handed =>
    intro s c r b refuse
    refine ⟨fun hf => ?_, fun hf hj => ⟨fun hq => ?_, fun hq => ?_⟩, fun x hj => ⟨fun ht => ?_, handOver_failed hj⟩⟩
    · exact handOver_refused (joinFailure_frozen hf) (.inl hf)
    · exact handOver_refused hj (.inr hq)
    · exact handOver_advances hj hf hq
    · obtain ⟨_, _, hx, _⟩ := joinFailure_iff.1 hj
      exact markSuspect_frozen ht hx
  case joins =>
    intro s b r mine set
    exact ⟨joinSet_starts, fun o h => ⟨joinSet_unprotected h, fun l hg => ⟨joinSet_fits h hg, joinSet_outgrows h hg⟩⟩⟩

/-- Settles O41: SET EJECTED by the bin it names, the queue's purge by stage, the set's purge by its protection, and the
place of an insertion. -/
theorem setEjected : Obligations.SetEjected := by
  unfold Obligations.SetEjected
  refine ⟨?ejects, ⟨fun s => purgeQueue_absent, fun s b => purgeQueue_compile,
    fun s b st => ⟨purgeStage_empty, fun r => purgeStage_holds⟩⟩, fun s => purgeSet_none, ?reissues, ?loses,
    fun e before after => insertEntry_between e⟩
  case ejects =>
    intro s b rest hp up
    refine ⟨fun h => event_passUp_quiet _ hp (ejectSet_none h) rfl, fun o h => ⟨fun hb => ?_, fun hb => ?_⟩⟩
    · exact event_passUp_quiet _ hp (ejectSet_other h hb) rfl
    · intro counted done
      have hpgd : done.pgd = s.pgd := checkDone_pgd o.job counted
      rw [← hpgd]
      exact event_passUp _ hp ((ejectSet_own h hb rfl).trans (by rw [releaseSet_eq]; rfl))
  case reissues =>
    intro s o l h hg entered locked
    have he : l.foldl (fun u p => reissueProtected p u) s = entered := by simp only [reissueProtected_eq]; rfl
    have hpgd : entered.pgd = s.pgd := he ▸ (reissueProtected_foldl l s).1
    refine purgeSet_protected h hg he ?_
    simp only [locked, ← hpgd]
    rw [relockSet_eq]
    rfl
  case loses =>
    intro s o h hg counted freed
    have hpgd : counted.pgd = s.pgd := checkDone_pgd o.job _
    refine purgeSet_lost h hg rfl ?_
    simp only [freed, ← hpgd]
    rw [releaseSet_eq]
    rfl

end Sys2Proof.Proofs
end

section
/-!
The Page Directory and the Band Pool as lists (R94, R115): what the operations on a sparse table do to its entries, every
change the part makes to a directory (`Directory.Change`), and what each of them keeps.
-/
namespace Sys2Proof.Machine

/-! ## Sparse tables as lists -/

section
variable {α : Type} {m : List (Nat × α)} {a : Nat} {v : α}

theorem mem_of_find (h : Cells.find m a = some v) : (a, v) ∈ m := by
  induction m with
  | nil => simp [Cells.find] at h
  | cons p m ih =>
    obtain ⟨k, w⟩ := p
    by_cases hk : a = k
    · simp only [Cells.find, hk, if_true, Option.some.injEq] at h
      simp [hk, h]
    · simp only [Cells.find, hk, if_false] at h
      exact List.mem_cons_of_mem _ (ih h)

theorem find_of_mem (hm : Cells.Rising m) (h : (a, v) ∈ m) : Cells.find m a = some v := by
  induction m with
  | nil => cases h
  | cons p m ih =>
    obtain ⟨hp, hm⟩ := List.pairwise_cons.1 hm
    rcases List.mem_cons.1 h with rfl | h
    · simp [Cells.find]
    · have : a ≠ p.1 := Nat.ne_of_gt (hp _ h)
      simpa [Cells.find, this] using ih hm h

/-- Listed and unlisted: an entry is the one found, and what is left of the table stands behind it. -/
theorem perm_of_find (h : Cells.find m a = some v) : m.Perm ((a, v) :: Cells.erase m a) := by
  induction m with
  | nil => simp [Cells.find] at h
  | cons p m ih =>
    obtain ⟨k, w⟩ := p
    by_cases hk : a = k
    · simp only [Cells.find, hk, if_true, Option.some.injEq] at h
      simp [Cells.erase, hk, h]
    · simp only [Cells.find, hk, if_false] at h
      simp only [Cells.erase, hk, if_false]
      exact ((ih h).cons _).trans (.swap _ _ _)

theorem erase_eq_filter (hm : Cells.Rising m) (a : Nat) : Cells.erase m a = m.filter fun p => decide (p.1 ≠ a) := by
  induction m with
  | nil => rfl
  | cons p m ih =>
    obtain ⟨hp, hm⟩ := List.pairwise_cons.1 hm
    by_cases hk : a = p.1
    · have hrest : (m.filter fun q => decide (q.1 ≠ a)) = m :=
        List.filter_eq_self.2 fun q hq => decide_eq_true (hk ▸ Nat.ne_of_gt (hp q hq))
      rw [List.filter_cons_of_neg (by simp [hk]), hrest]
      simp [Cells.erase, hk]
    · simp [Cells.erase, hk, Ne.symm hk, ih hm]

theorem erase_of_find_none (h : Cells.find m a = none) : Cells.erase m a = m := by
  induction m with
  | nil => rfl
  | cons p m ih =>
    obtain ⟨k, w⟩ := p
    by_cases hk : a = k
    · simp [Cells.find, hk] at h
    · simp only [Cells.find, hk, if_false] at h
      simp [Cells.erase, hk, ih h]

/-- An entry put stands in place of the one listed before. -/
theorem put_perm (hm : Cells.Rising m) (a : Nat) (v : α) : (Cells.put m a v).Perm ((a, v) :: Cells.erase m a) := by
  induction m with
  | nil => exact .refl _
  | cons p m ih =>
    obtain ⟨k, w⟩ := p
    obtain ⟨hp, hm⟩ := List.pairwise_cons.1 hm
    by_cases hlt : a < k
    · have hne : Cells.erase ((k, w) :: m) a = (k, w) :: m := by
        refine erase_of_find_none (find_none_of_rising fun q hq => ?_)
        rcases List.mem_cons.1 hq with rfl | hq
        · exact hlt
        · exact hlt.trans (hp q hq)
      simp [Cells.put, hlt, hne]
    · by_cases hk : a = k
      · simp [Cells.put, Cells.erase, hk]
      · simp only [Cells.put, Cells.erase, hlt, hk, if_false]
        exact ((ih hm).cons _).trans (.swap _ _ _)

theorem put_erase (m : List (Nat × α)) (a : Nat) (v : α) (hm : Cells.Rising m) :
    (Cells.put (Cells.erase m a) a v).Perm ((a, v) :: Cells.erase m a) := by
  have h := put_perm (rising_erase hm a) a v
  rwa [erase_of_find_none (find_erase_same hm a)] at h

end

/-! ## Lines and pages -/

/-- Two lines hold the same page in the same blocks. -/
abbrev Line.SamePage (l m : Line) : Prop := l.key = m.key ∧ l.chain = m.chain

theorem Line.enter_samePage (st : LineState) (cls : Retention) (l : Line) : (l.enter st cls).SamePage l := by
  unfold Line.enter
  split <;> exact ⟨rfl, rfl⟩

theorem Line.release_samePage (cls : Retention) (l : Line) : (l.release cls).SamePage l := l.enter_samePage _ _

theorem lookup_eq_some {d : Directory} {k : PageKey} {i : Nat} {l : Line} (h : d.lookup k = some (i, l)) :
    (i, l) ∈ d.lines ∧ i / Config.ways = setOf k ∧ l.key = k :=
  ⟨List.mem_of_find?_eq_some h, by simpa using List.find?_some h⟩

theorem lookup_eq_none {d : Directory} {k : PageKey} (h : d.lookup k = none) :
    ∀ p ∈ d.lines, p.1 / Config.ways = setOf k → p.2.key ≠ k := by
  simpa [Directory.lookup] using h

theorem lookup_of_replayLine {d : Directory} {k : PageKey} {p : Nat × Line} (h : d.replayLine k = some p) :
    d.lookup k = some p := Option.eq_some_of_filter_eq_some h

/-! ## Every change of a directory -/

/-- The changes that the part makes to the Page Directory and the Band Pool, one by one. A way is filled for a page that no
other way of its set holds; the blocks of a way that is dropped are freed. -/
inductive Directory.Change : Directory → Directory → Prop
  | lines {d} (f : Line → Line) (hf : ∀ l, (f l).SamePage l) : Change d (d.mapLines f)
  | put {d k i l m} (h : d.lookup k = some (i, l)) (hm : m.SamePage l) : Change d (d.putWay i m)
  | drop {d} (i : Nat) : Change d (d.dropWay i)
  | fill {d i m} (hset : i / Config.ways = setOf m.key) (hchain : m.chain = [])
      (h : d.lookup m.key = none ∨ ∃ l, d.lookup m.key = some (i, l)) : Change d ((d.dropWay i).putWay i m)
  | append {d b rest i l} (len : Nat) (hfree : d.free = b :: rest) (h : Cells.find d.lines i = some l) :
      Change d { d with free := rest, lines := Cells.put d.lines i (l.append b len) }
  | invalidate {d} (q : Seq) : Change d (d.invalidateOwner q)
  | walk {d} (w : Option Walk) (h : WalkOk d → WalkOk { d with walk := w }) : Change d { d with walk := w }
  | rest {d e : Directory} (hlines : e.lines = d.lines) (hfree : e.free = d.free) (hwalk : e.walk = d.walk) : Change d e
  | reset {d e : Directory} (hlines : e.lines = []) (hfree : e.free = List.range' 0 Config.blocks) (hwalk : e.walk = none) :
      Change d e

theorem touch_change (i : Nat) (d : Directory) : Directory.Change d (d.touch i) := by
  unfold Directory.touch
  split <;> exact .rest rfl rfl rfl

/-! ## What a change keeps -/

/-- All blocks, free or in a chain. -/
def Directory.allBlocks (free : List Nat) (lines : List (Nat × Line)) : List Nat := free ++ lines.flatMap fun p => p.2.chain

/-- The pool and the pages in order. -/
abbrev Directory.InOrder (d : Directory) : Prop := PoolOk d ∧ DirectoryOk d

theorem Directory.inOrder_of {d : Directory} (hr : Cells.Rising d.lines)
    (hb : (Directory.allBlocks d.free d.lines).Perm (List.range' 0 Config.blocks))
    (hs : ∀ p ∈ d.lines, p.1 / Config.ways = setOf p.2.key) (hk : (d.lines.map fun p => p.2.key).Nodup) : d.InOrder :=
  ⟨⟨hr, hb⟩, ⟨hr, hs, hk⟩⟩

theorem Directory.InOrder.congr {d e : Directory} (h : d.InOrder) (hlines : e.lines = d.lines) (hfree : e.free = d.free) :
    e.InOrder := by
  obtain ⟨⟨hr, hb⟩, ⟨_, hs, hk⟩⟩ := h
  refine inOrder_of ?_ ?_ ?_ ?_ <;> rw [hlines]
  · exact hr
  · rw [hfree]; exact hb
  · exact hs
  · exact hk

theorem Directory.InOrder.mapLines {d : Directory} (h : d.InOrder) {f : Line → Line} (hf : ∀ l, (f l).SamePage l) :
    (d.mapLines f).InOrder := by
  obtain ⟨⟨hr, hb⟩, ⟨_, hs, hk⟩⟩ := h
  have hkey l : (f l).key = l.key := (hf l).1
  have hchain l : (f l).chain = l.chain := (hf l).2
  refine inOrder_of (List.pairwise_map.2 hr) ?_ ?_ ?_
  · simpa [Directory.allBlocks, Directory.mapLines, List.flatMap_map, hchain] using hb
  · intro p hp
    obtain ⟨x, hx, rfl⟩ := List.mem_map.1 hp
    exact (hs x hx).trans (by rw [hkey])
  · simpa [Directory.mapLines, Function.comp_def, hkey] using hk

/-- Lines that stand in one way behind the rest of a directory in order, with the blocks and the key of that way accounted
for, are in order. -/
theorem Directory.InOrder.replace {d e : Directory} (h : d.InOrder) {i : Nat} {m : Line} (hr : Cells.Rising e.lines)
    (he : e.lines.Perm ((i, m) :: Cells.erase d.lines i)) (hset : i / Config.ways = setOf m.key)
    (hnew : ∀ p ∈ Cells.erase d.lines i, p.2.key ≠ m.key)
    (hb : (Directory.allBlocks (e.free ++ m.chain) (Cells.erase d.lines i)).Perm
      (Directory.allBlocks d.free d.lines)) : e.InOrder := by
  obtain ⟨⟨hr', hb'⟩, ⟨_, hs, hk⟩⟩ := h
  have hsub : (Cells.erase d.lines i).Sublist d.lines := by rw [erase_eq_filter hr']; exact List.filter_sublist
  refine inOrder_of hr ?_ (fun p hp => ?_) ?_
  · refine .trans ?_ (hb.trans hb')
    rw [Directory.allBlocks, Directory.allBlocks, List.append_assoc]
    exact (he.flatMap_right _).append_left _
  · rcases List.mem_cons.1 (he.mem_iff.1 hp) with rfl | hp
    · exact hset
    · exact hs p (hsub.subset hp)
  · refine (he.map _).nodup_iff.2 (List.nodup_cons.2 ⟨fun hm => ?_, hk.sublist (hsub.map _)⟩)
    obtain ⟨p, hp, hkey⟩ := List.mem_map.1 hm
    exact hnew p hp hkey

/-- The key of a listed line stands in no other way. -/
theorem DirectoryOk.key_unique {d : Directory} (h : DirectoryOk d) {i : Nat} {l : Line} (hl : Cells.find d.lines i = some l) :
    ∀ p ∈ Cells.erase d.lines i, p.2.key ≠ l.key := by
  have hk := ((perm_of_find hl).map fun p => p.2.key).nodup_iff.1 h.keys
  exact fun p hp he => (List.nodup_cons.1 hk).1 (List.mem_map.2 ⟨p, hp, he⟩)

theorem Directory.allBlocks_find {d : Directory} {i : Nat} {l : Line} (hl : Cells.find d.lines i = some l) :
    (Directory.allBlocks (d.free ++ l.chain) (Cells.erase d.lines i)).Perm (Directory.allBlocks d.free d.lines) := by
  rw [Directory.allBlocks, Directory.allBlocks, List.append_assoc]
  exact ((perm_of_find hl).symm.flatMap_right fun p => p.2.chain).append_left _

theorem Directory.dropWay_none {d : Directory} {i : Nat} (h : Cells.find d.lines i = none) : d.dropWay i = d := by
  simp only [Directory.dropWay, h]

theorem Directory.dropWay_some {d : Directory} {i : Nat} {l : Line} (h : Cells.find d.lines i = some l) :
    d.dropWay i = { d with lines := Cells.erase d.lines i, free := d.free ++ l.chain } := by
  simp only [Directory.dropWay, h]

theorem Directory.dropWay_lines (d : Directory) (i : Nat) : (d.dropWay i).lines = Cells.erase d.lines i := by
  cases h : Cells.find d.lines i with
  | none => rw [dropWay_none h, erase_of_find_none h]
  | some l => rw [dropWay_some h]

@[simp] theorem Directory.dropWay_walk (d : Directory) (i : Nat) : (d.dropWay i).walk = d.walk := by
  unfold Directory.dropWay
  split <;> rfl

theorem Directory.allBlocks_dropWay (d : Directory) (i : Nat) :
    (Directory.allBlocks (d.dropWay i).free (Cells.erase d.lines i)).Perm (Directory.allBlocks d.free d.lines) := by
  cases h : Cells.find d.lines i with
  | none => rw [dropWay_none h, erase_of_find_none h]
  | some l => rw [dropWay_some h]; exact allBlocks_find h

theorem Directory.InOrder.dropWay {d : Directory} (h : d.InOrder) (i : Nat) : (d.dropWay i).InOrder := by
  have hb := Directory.allBlocks_dropWay d i
  obtain ⟨⟨hr, hb'⟩, ⟨_, hs, hk⟩⟩ := h
  have hsub : (Cells.erase d.lines i).Sublist d.lines := by rw [erase_eq_filter hr]; exact List.filter_sublist
  refine inOrder_of ?_ ?_ ?_ ?_ <;> rw [Directory.dropWay_lines]
  · exact rising_erase hr i
  · exact hb.trans hb'
  · exact fun p hp => hs p (hsub.subset hp)
  · exact hk.sublist (hsub.map _)

theorem Directory.InOrder.putWay {d : Directory} (h : d.InOrder) {k : PageKey} {i : Nat} {l m : Line}
    (hl : d.lookup k = some (i, l)) (hm : m.SamePage l) : (d.putWay i m).InOrder := by
  obtain ⟨hmem, hset, hkey⟩ := lookup_eq_some hl
  have hfind := find_of_mem h.2.rising hmem
  refine h.replace (rising_put h.2.rising i m) (put_perm h.2.rising i m) (by rw [hm.1, hkey, hset])
    (by rw [hm.1]; exact h.2.key_unique hfind) ?_
  rw [hm.2]
  exact Directory.allBlocks_find hfind

theorem Directory.InOrder.fillWay {d : Directory} (h : d.InOrder) {i : Nat} {m : Line}
    (hset : i / Config.ways = setOf m.key) (hchain : m.chain = [])
    (hk : d.lookup m.key = none ∨ ∃ l, d.lookup m.key = some (i, l)) : ((d.dropWay i).putWay i m).InOrder := by
  have hlines : ((d.dropWay i).putWay i m).lines = Cells.put (Cells.erase d.lines i) i m := by
    rw [← Directory.dropWay_lines]; rfl
  have hnew : ∀ p ∈ Cells.erase d.lines i, p.2.key ≠ m.key := by
    rcases hk with hk | ⟨l, hk⟩
    · exact fun p hp he => lookup_eq_none hk p (mem_erase hp) ((h.2.sets p (mem_erase hp)).trans (by rw [he])) he
    · obtain ⟨hmem, _, hkey⟩ := lookup_eq_some hk
      exact hkey ▸ h.2.key_unique (find_of_mem h.2.rising hmem)
  refine h.replace ?_ ?_ hset hnew ?_
  · rw [hlines]; exact rising_put (rising_erase h.2.rising i) i m
  · rw [hlines]; exact put_erase _ i m h.2.rising
  · rw [hchain, List.append_nil]; exact Directory.allBlocks_dropWay d i

theorem Directory.InOrder.append {d : Directory} (h : d.InOrder) {b : Nat} {rest : List Nat} {i : Nat} {l : Line} (len : Nat)
    (hfree : d.free = b :: rest) (hl : Cells.find d.lines i = some l) :
    Directory.InOrder { d with free := rest, lines := Cells.put d.lines i (l.append b len) } := by
  refine h.replace (rising_put h.2.rising i _) (put_perm h.2.rising i _) (h.2.sets _ (mem_of_find hl))
    (DirectoryOk.key_unique (l := l) h.2 hl) (.trans ?_ (Directory.allBlocks_find hl))
  rw [hfree]
  refine List.Perm.append_right _ ?_
  change (rest ++ (l.chain ++ [b])).Perm (b :: (rest ++ l.chain))
  rw [← List.append_assoc]
  exact List.perm_append_singleton b _

theorem Directory.InOrder.invalidateOwner {d : Directory} (h : d.InOrder) (q : Seq) : (d.invalidateOwner q).InOrder := by
  obtain ⟨⟨hr, hb⟩, ⟨_, hs, hk⟩⟩ := h
  let gone : Nat × Line → Bool := fun p => decide (p.2.owner = some q) && !p.2.pin
  have hmark (p : Nat × Line) :
      (if p.2.owner = some q then { p.2 with invalidateOnUnpin := true } else p.2).SamePage p.2 := by
    split <;> exact ⟨rfl, rfl⟩
  refine inOrder_of (List.pairwise_map.2 (hr.filter _)) ?_ (fun p hp => ?_) ?_
  · refine .trans ?_ hb
    simp only [Directory.allBlocks, Directory.invalidateOwner, List.flatMap_map, (hmark _).2, List.append_assoc]
    rw [← List.flatMap_append]
    exact ((List.filter_append_perm gone d.lines).flatMap_right _).append_left _
  · obtain ⟨x, hx, rfl⟩ := List.mem_map.1 hp
    exact (hs x (List.mem_of_mem_filter hx)).trans (by rw [(hmark x).1])
  · simp only [Directory.invalidateOwner, List.map_map, Function.comp_def, (hmark _).1]
    exact hk.sublist (List.filter_sublist.map _)

/-- Every change keeps the pool and the pages in order. -/
theorem Directory.Change.inOrder {d e : Directory} (hc : Directory.Change d e) (h : d.InOrder) : e.InOrder := by
  cases hc with
  | lines f hf => exact h.mapLines hf
  | put hl hm => exact h.putWay hl hm
  | drop i => exact h.dropWay i
  | fill hset hchain hk => exact h.fillWay hset hchain hk
  | append len hfree hl => exact h.append len hfree hl
  | invalidate q => exact h.invalidateOwner q
  | walk w _ => exact h.congr rfl rfl
  | rest hlines hfree _ => exact h.congr hlines hfree
  | reset hlines hfree _ =>
    refine inOrder_of ?_ ?_ ?_ ?_ <;> simp [hlines, hfree, Cells.Rising, Directory.allBlocks]

theorem WalkOk.congr {d e : Directory} (h : WalkOk d) (hwalk : e.walk = d.walk) : WalkOk e := fun w hw => h w (hwalk ▸ hw)

/-- Every change keeps the flush walk within its sets and its report buffer. -/
theorem Directory.Change.walkOk {d e : Directory} (hc : Directory.Change d e) (h : WalkOk d) : WalkOk e := by
  cases hc with
  | lines | put | append | invalidate => exact h.congr rfl
  | drop i => exact h.congr (Directory.dropWay_walk d i)
  | fill => exact h.congr (Directory.dropWay_walk d _)
  | walk w hw => exact hw h
  | rest _ _ hwalk => exact h.congr hwalk
  | reset _ _ hwalk => exact fun w hw => by rw [hwalk] at hw; cases hw

end Sys2Proof.Machine
end

section
/-!
What a step can do to what the part stores: `Follows s t` says that the page directory, the retention DRAM with its length
records, and the divider with the edges that wait, stand in `t` as changes of those in `s`. Said once for the shared
operations here, and for the rows below; the invariants of all three follow from it.
-/
namespace Sys2Proof.Machine

/-! ## The changes of the DRAM and of the monitor -/

/-- The changes of the retention DRAM and the length records: a band is stored (R118), or a reset forgets them. -/
inductive Capture.Change : Capture → Capture → Prop
  | store (c : Capture) (n : Nat) (data : List Byte) : Change c
      { c with dram := Memory.writeRun c.dram (blockBase n) data, lengths := Cells.put c.lengths n data.length }
  | rest {c d : Capture} (hdram : d.dram = c.dram) (hlengths : d.lengths = c.lengths) : Change c d
  | reset {c d : Capture} (hdram : d.dram = []) (hlengths : d.lengths = []) : Change c d

/-- What the divider and the edges depend on: TDIV and the monitor. -/
def State.sensing (s : State) : Nat × Monitor := (s.pds.timing.tdiv, s.ckm)

/-- The changes of the divider and of the edges that wait: an edge taken, a sample instant, a transport pulse (R36, R41), and
the divider begun anew, with TDIV as it is then. -/
inductive Monitor.Change : Nat × Monitor → Nat × Monitor → Prop
  | pop (n : Nat) (m : Monitor) (c : Checkpoint) : Change (n, m) (n, m.popEdge c)
  | sample (n : Nat) (m : Monitor) (lines : CheckpointLines) : Change (n, m) (n, m.sampleCheckpoints lines)
  | pulse (n : Nat) (m : Monitor) : Change (n, m) (n, m.tpEdge n)
  | rest {x y : Nat × Monitor} (hdiv : y.1 = x.1) (hcount : y.2.partialCount = x.2.partialCount)
      (hedges : y.2.edges = x.2.edges) : Change x y
  | restart {x y : Nat × Monitor} (hcount : y.2.partialCount = 0) (hedges : y.2.edges = x.2.edges ∨ y.2.edges = []) :
      Change x y

theorem Capture.Change.dramOk {c d : Capture} (hc : Capture.Change c d) (h : DramOk c) : DramOk d := by
  cases hc with
  | store n data => exact ⟨wf_writeRun h.dram _ _, rising_put h.lengths _ _⟩
  | rest hdram hlengths => exact ⟨hdram ▸ h.dram, hlengths ▸ h.lengths⟩
  | reset hdram hlengths =>
    exact ⟨hdram ▸ ⟨List.Pairwise.nil, fun _ hc => nomatch hc⟩, hlengths ▸ List.Pairwise.nil⟩

theorem Monitor.Change.divider {x y : Nat × Monitor} (hc : Monitor.Change x y) (h : x.2.partialCount < 2 ^ x.1) :
    y.2.partialCount < 2 ^ y.1 := by
  have restarted (n : Nat) : 0 < 2 ^ n := Nat.two_pow_pos n
  cases hc with
  | pop n m c =>
    unfold Monitor.popEdge
    repeat' split
    all_goals exact h
  | sample n m lines => exact h
  | pulse n m =>
    unfold Monitor.tpEdge
    dsimp only
    split
    next hlt => exact hlt
    next => exact restarted n
  | rest hdiv hcount _ => rw [hdiv, hcount]; exact h
  | restart hcount _ => rw [hcount]; exact restarted _

theorem edgesOf_nonempty (acc new : CheckpointLines) (now : Count) : ∀ g ∈ edgesOf acc new now, g ≠ [] := by
  unfold edgesOf
  split
  · exact fun g hg => nomatch hg
  next hcs =>
    intro g hg
    rw [List.mem_singleton.1 hg]
    exact fun hnil => hcs (List.map_eq_nil_iff.1 hnil)

theorem Monitor.Change.edgesOk {x y : Nat × Monitor} (hc : Monitor.Change x y) (h : EdgesOk x.2) : EdgesOk y.2 := by
  cases hc with
  | pop n m c =>
    unfold Monitor.popEdge
    split
    · exact h
    next now later he =>
      have hlater : ∀ g ∈ later, g ≠ [] := fun g hg => h g (he ▸ List.mem_cons_of_mem _ hg)
      split
      · exact hlater
      next hne =>
        intro g hg
        rcases List.mem_cons.1 hg with rfl | hg
        · exact hne
        · exact hlater g hg
  | sample n m lines =>
    intro g hg
    rcases List.mem_append.1 hg with hg | hg
    · exact h g hg
    · exact edgesOf_nonempty _ _ _ g hg
  | pulse n m =>
    unfold Monitor.tpEdge
    dsimp only
    split <;> exact h
  | rest _ _ hedges => exact fun g hg => h g (hedges ▸ hg)
  | restart _ hedges =>
    rcases hedges with hedges | hedges
    · exact fun g hg => h g (hedges ▸ hg)
    · exact fun g hg => by rw [hedges] at hg; cases hg

/-! ## What follows from a state -/

/-- What `t` stores follows from what `s` stores by the changes the part makes. -/
abbrev Follows (s t : State) : Prop :=
  Relation.ReflTransGen Directory.Change s.pgd t.pgd ∧ Relation.ReflTransGen Capture.Change s.cre t.cre ∧
    Relation.ReflTransGen Monitor.Change s.sensing t.sensing

theorem reflTransGen_kept {α : Type} {r : α → α → Prop} {P : α → Prop} (hr : ∀ {a b}, r a b → P a → P b) {a b : α}
    (h : Relation.ReflTransGen r a b) (ha : P a) : P b := by
  induction h with
  | refl => exact ha
  | tail _ hbc ih => exact hr hbc ih

/-- The watch over the gate head leaves all that is stored. -/
theorem Watched.stored {u v : State} (h : Watched u v) :
    v.pgd = u.pgd ∧ v.cre = u.cre ∧ v.sensing = u.sensing :=
  ⟨h.pgd, h.cre, by unfold State.sensing; rw [h.pds, h.ckm]⟩

namespace Follows
variable {s u : State}

theorem refl (s : State) : Follows s s := ⟨.refl, .refl, .refl⟩

theorem of_stored {v : State} (h : Follows s u) (hv : v.pgd = u.pgd ∧ v.cre = u.cre ∧ v.sensing = u.sensing) :
    Follows s v := by
  obtain ⟨hpgd, hcre, hsensing⟩ := hv
  rw [Follows, hpgd, hcre, hsensing]
  exact h

theorem onPgd {f : Directory → Directory} (h : Follows s u) (hf : Directory.Change u.pgd (f u.pgd)) :
    Follows s (u.onPgd f) := ⟨h.1.tail hf, h.2⟩

theorem onCre {f : Capture → Capture} (h : Follows s u) (hf : Capture.Change u.cre (f u.cre)) : Follows s (u.onCre f) :=
  ⟨h.1, h.2.1.tail hf, h.2.2⟩

theorem onCkm {f : Monitor → Monitor} (h : Follows s u) (hf : Monitor.Change u.sensing (u.pds.timing.tdiv, f u.ckm)) :
    Follows s (u.onCkm f) := ⟨h.1, h.2.1, h.2.2.tail hf⟩

theorem onLi (f : Link → Link) (h : Follows s u) : Follows s (u.onLi f) := h
theorem onStk (f : Tracker → Tracker) (h : Follows s u) : Follows s (u.onStk f) := h
theorem onDlu (f : Delivery → Delivery) (h : Follows s u) : Follows s (u.onDlu f) := h
theorem onOgt (f : Gate → Gate) (h : Follows s u) : Follows s (u.onOgt f) := h
theorem onRcc (f : Recovery → Recovery) (h : Follows s u) : Follows s (u.onRcc f) := h

/-- A change of the capture engine that is not one of its DRAM. -/
theorem engine {f : Capture → Capture} (h : Follows s u) (hdram : (f u.cre).dram = u.cre.dram)
    (hlengths : (f u.cre).lengths = u.cre.lengths) : Follows s (u.onCre f) := h.onCre (.rest hdram hlengths)

theorem watchGate (before : State) (h : Follows s u) : Follows s (watchGate before u) :=
  h.of_stored (watchGate_watched before u).stored

theorem watched {f : State → State} (h : Follows s (f u)) : Follows s (watched f u) := watchGate u h

theorem foldl {α : Type} {g : State → α → State} (l : List α) (h : Follows s u)
    (hg : ∀ v a, Follows s v → Follows s (g v a)) : Follows s (l.foldl g u) := kept_foldl hg l h

/-! ### The Page Directory -/

/-- The lines that satisfy a test change, and none its page. -/
theorem mapLines {p : Line → Prop} [DecidablePred p] {f : Line → Line} (h : Follows s u) (hf : ∀ l, (f l).SamePage l) :
    Follows s (u.onPgd (Directory.mapLines fun l => if p l then f l else l)) := by
  refine h.onPgd (.lines _ fun l => ?_)
  split
  · exact hf l
  · exact ⟨rfl, rfl⟩

theorem releaseSet (t : SetTag) (h : Follows s u) : Follows s (releaseSet t u) :=
  h.mapLines fun l => l.release_samePage _

theorem loseProtection (t : SetTag) (h : Follows s u) : Follows s (loseProtection t u) := by
  unfold Machine.loseProtection
  repeat' split
  · exact releaseSet (u := u.onDlu _) t h
  · exact h
  · exact h

theorem releaseOwner (q : Seq) (h : Follows s u) : Follows s (releaseOwner q u) :=
  h.mapLines fun l => l.release_samePage _

theorem compileOwner (q : Seq) (t : SetTag) (guarded : Bool) (h : Follows s u) : Follows s (compileOwner q t guarded u) := by
  refine h.mapLines fun l => ?_
  dsimp only
  split
  · exact l.enter_samePage _ _
  · exact l.release_samePage _

theorem relockSet (t : SetTag) (h : Follows s u) : Follows s (relockSet t u) :=
  h.mapLines fun l => l.enter_samePage _ _

theorem invalidateOwner (q : Seq) (h : Follows s u) : Follows s (invalidateOwner q u) := h.onPgd (.invalidate q)

theorem dropWay (i : Nat) (h : Follows s u) : Follows s (u.onPgd (Directory.dropWay i)) := h.onPgd (.drop i)

/-- The line a page is present in changes, and not its page. -/
theorem putWay {k : PageKey} {i : Nat} {l m : Line} (h : Follows s u) (hl : u.pgd.lookup k = some (i, l))
    (hm : m.SamePage l) : Follows s (u.onPgd (Directory.putWay i m)) := h.onPgd (.put hl hm)

theorem relockLine (q : Seq) (k : PageKey) (h : Follows s u) : Follows s (relockLine q k u) := by
  unfold Machine.relockLine
  split
  next i l hl =>
    split
    · exact h.putWay hl (l.enter_samePage _ _)
    · exact h
  · exact h

theorem claimLine (q : Seq) (k : PageKey) (h : Follows s u) : Follows s (claimLine q k u) := by
  unfold Machine.claimLine
  split
  next i l hl =>
    have owned := h.putWay (m := { l with owner := some q }) hl ⟨rfl, rfl⟩
    repeat' split
    · exact owned
    · exact h
    · exact owned
    · exact h
    · exact h.putWay hl (l.enter_samePage _ _)
    · exact h
    · exact h
  · exact h

theorem writeCompleted (k : PageKey) (final : Bool) (h : Follows s u) : Follows s (writeCompleted k final u) := by
  unfold Machine.writeCompleted
  split
  next i l hl =>
    split
    · exact h.putWay hl (l.enter_samePage _ _)
    · exact h
  · exact h

theorem pinLine {k : PageKey} {i : Nat} {l : Line} (h : Follows s u) (hl : u.pgd.replayLine k = some (i, l)) :
    Follows s (pinLine i l u) :=
  (h.putWay (m := { l with pin := true, invalidateOnUnpin := false }) (lookup_of_replayLine hl) ⟨rfl, rfl⟩).onPgd
    (touch_change i _)

theorem unpinAbandoned (k : PageKey) (h : Follows s u) : Follows s (unpinAbandoned k u) := by
  unfold Machine.unpinAbandoned
  split
  next i l hl =>
    split
    · exact h.dropWay i
    · exact h.putWay hl ⟨rfl, rfl⟩
  · exact h

theorem imagingDoneLine (k : PageKey) (h : Follows s u) : Follows s (imagingDoneLine k u) := by
  unfold Machine.imagingDoneLine
  split
  next i l hl =>
    have released := h.putWay (m := l.unpin.release (effectiveClass u k)) hl (l.unpin.release_samePage _)
    have locked := h.putWay (m := l.unpin.enter .locked (effectiveClass u k)) hl (l.unpin.enter_samePage _ _)
    have unpinned := h.putWay (m := l.unpin) hl ⟨rfl, rfl⟩
    dsimp only
    repeat' split
    · exact h.dropWay i
    · exact released
    · exact locked
    · exact released
    · exact locked
    · exact unpinned
    · exact unpinned
    · exact unpinned
  · exact h

/-! ### Placement and discards -/

theorem discardBand (k : PageKey) (i : Nat) (r : DiscardReason) (h : Follows s u) : Follows s (discardBand k i r u) :=
  onPgd (u := post _ u) h (.rest rfl rfl rfl)

theorem reportDiscard (k : PageKey) (h : Follows s u) : Follows s (reportDiscard k u) := by
  unfold Machine.reportDiscard
  repeat' split
  all_goals exact h

theorem discardGap (k : PageKey) (i : Nat) (h : Follows s u) : Follows s (discardGap k i u) :=
  (h.discardBand k i _).reportDiscard k

theorem discardFull (k : PageKey) (i : Nat) (h : Follows s u) : Follows s (discardFull k i u) :=
  (h.discardBand k i _).reportDiscard k

/-- A way of the page's set becomes FILLING for a page that no other way holds. -/
theorem fillWay {k : PageKey} {i : Nat} (h : Follows s u) (hset : i / Config.ways = setOf k)
    (hk : u.pgd.lookup k = none ∨ ∃ l, u.pgd.lookup k = some (i, l)) : Follows s (fillWay k i u) := by
  have hfill : Follows s (u.onPgd fun d => (d.dropWay i).putWay i (freshLine u k)) := h.onPgd (.fill hset rfl hk)
  have hfilled : Follows s (Machine.watched (fun v => v.onPgd fun d =>
      ((d.dropWay i).putWay i (freshLine v k)).touch i) u) := watched (hfill.onPgd (touch_change i _))
  unfold Machine.fillWay
  dsimp only
  repeat' split
  · exact hfilled.loseProtection _
  · exact hfilled
  · exact hfilled

theorem displacePool (k : PageKey) (h : Follows s u) : Follows s (displacePool k u) := by
  unfold Machine.displacePool
  repeat' split
  · exact watched (h.dropWay _)
  · exact h
  · exact h

theorem takeBlock (k : PageKey) (i index len : Nat) (h : Follows s u) : Follows s (takeBlock k i index len u).1 := by
  have hd := h.displacePool k
  unfold Machine.takeBlock
  dsimp only
  split
  next b rest hfree =>
    refine hd.onPgd ?_
    split
    next l hl => exact .append len hfree hl
    · exact .rest rfl rfl rfl
  · exact watched ((hd.discardFull k index).dropWay i)

end Follows

/-! ### The way a first band takes -/

theorem mem_waysOf {k : PageKey} {i : Nat} : i ∈ waysOf k ↔ i / Config.ways = setOf k := by
  unfold waysOf
  rw [List.mem_range'_1]
  simp only [Config.ways]
  omega

theorem Plru.pointed_lt (p : Plru) : p.pointed < Config.ways := by
  unfold Plru.pointed
  repeat' split
  all_goals decide

theorem releasedWay_mem {d : Directory} {k : PageKey} {i : Nat} (h : releasedWay d k = some i) : i ∈ waysOf k := by
  unfold releasedWay at h
  dsimp only at h
  split at h
  · have hp := (d.bitsOf (setOf k)).pointed_lt
    cases h
    rw [waysOf, List.mem_range'_1]
    omega
  · exact List.mem_of_find?_eq_some h

/-- The SETHELD ways of the lowest owner. -/
def lowestHeld (d : Directory) (k : PageKey) : List Nat :=
  let held := (waysOf k).filter fun i => d.stateAt i = some .setheld
  held.filter fun i => held.all fun j => decide (d.ownerAt i ≤ d.ownerAt j)

/-- Step 3 of R100 picks one of the SETHELD ways of the lowest owner (log 14). -/
theorem setheldWay_mem {d : Directory} {k : PageKey} {i : Nat} (h : setheldWay d k = some i) : i ∈ lowestHeld d k := by
  unfold setheldWay at h
  change (match lowestHeld d k with
    | [] => none | [i] => some i | i :: rest => _) = _ at h
  split at h
  · cases h
  next hl => cases h; rw [hl]; exact List.mem_singleton.2 rfl
  next j rest _ hl =>
    rw [hl, ← Option.some.inj h, List.getD_eq_getElem _ _ (Nat.mod_lt _ (List.length_pos_of_ne_nil (by simp)))]
    exact List.getElem_mem _

/-- `p` ranks no later than `q` in displacement (R101). -/
def RanksUpTo (p q : Option Seq) : Prop := p = none ∨ ∃ a b, p = some a ∧ q = some b ∧ b ≤ a

theorem ranksBefore_eq_false {p q : Option Seq} : ranksBefore q p = false ↔ RanksUpTo p q := by
  cases p <;> cases q <;> simp [ranksBefore, RanksUpTo]

theorem ranksBefore_eq_true {p q : Option Seq} (h : ranksBefore q p = true) : RanksUpTo q p ∧ p ≠ q := by
  cases q with
  | none => exact ⟨.inl rfl, fun hp => by rw [hp] at h; cases h⟩
  | some b =>
    cases p with
    | none => cases h
    | some a =>
      have hlt : a < b := of_decide_eq_true h
      exact ⟨.inr ⟨b, a, rfl, rfl, hlt.le⟩, fun he => hlt.ne (Option.some.inj he)⟩

theorem RanksUpTo.trans {p q r : Option Seq} (h : RanksUpTo p q) (k : RanksUpTo q r) : RanksUpTo p r := by
  rcases h with h | ⟨a, b, ha, hb, hab⟩
  · exact .inl h
  · rcases k with k | ⟨c, d, hc, hd, hcd⟩
    · rw [hb] at k; cases k
    · rw [hb] at hc
      cases hc
      exact .inr ⟨a, d, ha, hd, hcd.trans hab⟩

theorem firstRanked_eq_none {l : List (Nat × Line)} : firstRanked l = none ↔ l = [] := by
  cases l with
  | nil => simp [firstRanked]
  | cons p ps =>
    unfold firstRanked
    split
    · simp
    · split <;> simp

/-- The first-ranked line: none ranks before it, and of equal rank it stands first (R101). -/
theorem firstRanked_first {l : List (Nat × Line)} {p : Nat × Line} (h : firstRanked l = some p) :
    p ∈ l ∧ (Cells.Rising l → ∀ q ∈ l, RanksUpTo p.2.owner q.2.owner ∧ (q.2.owner = p.2.owner → p.1 ≤ q.1)) := by
  have self (p : Nat × Line) : RanksUpTo p.2.owner p.2.owner := by
    cases hp : p.2.owner with
    | none => exact .inl rfl
    | some a => exact .inr ⟨a, a, rfl, rfl, le_rfl⟩
  induction l generalizing p with
  | nil => cases h
  | cons x xs ih =>
    unfold firstRanked at h
    split at h
    next hn =>
      cases h
      rw [firstRanked_eq_none.1 hn]
      refine ⟨List.mem_singleton.2 rfl, fun _ q hq => ?_⟩
      rw [List.mem_singleton.1 hq]
      exact ⟨self x, fun _ => le_rfl⟩
    next y hy =>
      obtain ⟨hmem, hfirst⟩ := ih hy
      split at h
      next hb =>
        cases h
        obtain ⟨hrank, hne⟩ := ranksBefore_eq_true hb
        refine ⟨List.mem_cons_of_mem _ hmem, fun hr q hq => ?_⟩
        rcases List.mem_cons.1 hq with rfl | hq
        · exact ⟨hrank, fun he => absurd he hne⟩
        · exact hfirst (List.pairwise_cons.1 hr).2 q hq
      next hb =>
        cases h
        have hrank := ranksBefore_eq_false.1 (Bool.eq_false_iff.2 hb)
        refine ⟨List.mem_cons_self, fun hr q hq => ?_⟩
        obtain ⟨hx, hxs⟩ := List.pairwise_cons.1 hr
        rcases List.mem_cons.1 hq with rfl | hq
        · exact ⟨self _, fun _ => le_rfl⟩
        · exact ⟨hrank.trans (hfirst hxs q hq).1, fun _ => (hx q hq).le⟩

/-- Step 4 of R100 takes a displaceable line of the set. -/
theorem displacedWay_mem {s : State} {k : PageKey} {i : Nat} (h : displacedWay s k = some i) : i ∈ waysOf k := by
  unfold displacedWay at h
  split at h
  · obtain ⟨p, hp, rfl⟩ := Option.map_eq_some_iff.1 h
    have hset := List.of_mem_filter (firstRanked_first hp).1
    rw [Bool.and_eq_true, decide_eq_true_eq] at hset
    exact mem_waysOf.2 hset.1
  · cases h

/-- Victim choice takes a way of the page's set (R100). -/
theorem victim_mem {s : State} {k : PageKey} {i : Nat} (h : victim s k = some i) : i ∈ waysOf k := by
  unfold victim at h
  split at h
  next hi => exact Option.some.inj h ▸ List.mem_of_find?_eq_some hi
  · split at h
    next hi => exact Option.some.inj h ▸ releasedWay_mem hi
    · split at h
      next hi => exact Option.some.inj h ▸ List.mem_of_mem_filter (List.mem_of_mem_filter (setheldWay_mem hi))
      · exact displacedWay_mem h

namespace Follows
variable {s u : State}

theorem placeByTable (k : PageKey) (index : Nat) (final : Bool) (len : Nat) (h : Follows s u) :
    Follows s (placeByTable k index final len u).1 := by
  unfold Machine.placeByTable
  split
  next hk =>
    split
    · split
      next i hi => exact (h.fillWay (mem_waysOf.1 (victim_mem hi)) (.inl hk)).takeBlock k i index len
      · exact h.discardFull k index
    · exact h.discardGap k index
  next i l hl =>
    have hset := (lookup_eq_some hl).2.1
    split
    · split
      · exact (h.fillWay hset (.inr ⟨l, hl⟩)).takeBlock k i index len
      · exact h.discardGap k index
    · repeat' split
      · exact h.discardBand k index _
      · exact h.takeBlock k i index len
      · exact (h.dropWay i).discardGap k index
    all_goals exact h.discardBand k index _

theorem place (k : PageKey) (index : Nat) (final : Bool) (len : Nat) (h : Follows s u) :
    Follows s (place k index final len u).1 := by
  unfold Machine.place
  split
  · exact h
  · exact (h.onPgd (.rest rfl rfl rfl)).placeByTable k index final len

end Follows

/-! ### The flush walk -/

/-- One way of the walked set: a line that the walk takes is made INVALID, another is passed over (R113). -/
theorem walkWays_cons (i : Nat) (is : List Nat) (w : Walk) (t : Option SetTag) (s : State) :
    (∃ l, Cells.find s.pgd.lines i = some l ∧ w.takes l = true ∧ walkWays (i :: is) w t s =
      walkWays is (walkInvalidate i l w s).1 (if l.state = .setheld then l.setTag else t) (walkInvalidate i l w s).2) ∨
    ((∀ l, Cells.find s.pgd.lines i = some l → w.takes l = false) ∧ walkWays (i :: is) w t s = walkWays is w t s) := by
  cases hl : Cells.find s.pgd.lines i with
  | none => exact .inr ⟨fun _ h => (nomatch h), by simp only [walkWays, hl]⟩
  | some l =>
    by_cases ht : w.takes l = true
    · exact .inl ⟨l, rfl, ht, by simp only [walkWays, hl, ht, if_true]⟩
    · refine .inr ⟨fun m hm => ?_, by simp only [walkWays, hl, ht, if_false, Bool.false_eq_true]⟩
      rw [← Option.some.inj hm]
      exact Bool.eq_false_iff.2 ht

theorem walkInvalidate_walk (i : Nat) (l : Line) (w : Walk) (s : State) :
    (walkInvalidate i l w s).2.pgd.walk = s.pgd.walk ∧
      (w.buffer.length < Config.reportKeys → (walkInvalidate i l w s).1.buffer.length < Config.reportKeys) := by
  have hdrop : (s.onPgd (Directory.dropWay i)).pgd.walk = s.pgd.walk := Directory.dropWay_walk s.pgd i
  unfold walkInvalidate
  dsimp only
  repeat' split
  · exact ⟨hdrop, fun _ => Nat.zero_lt_of_lt (Nat.lt_add_one 15)⟩
  next hne =>
    refine ⟨hdrop, fun hlt => ?_⟩
    rw [List.length_append, List.length_singleton] at hne ⊢
    exact Nat.lt_of_le_of_ne hlt hne
  · exact ⟨hdrop, id⟩

/-- The ways of a set are walked without a change of the walk on record; the report buffer is emptied when it is full. -/
theorem walkWays_walk (is : List Nat) (w : Walk) (t : Option SetTag) (s : State) :
    (walkWays is w t s).2.2.pgd.walk = s.pgd.walk ∧
      (w.buffer.length < Config.reportKeys → (walkWays is w t s).1.buffer.length < Config.reportKeys) := by
  induction is generalizing w t s with
  | nil => exact ⟨rfl, id⟩
  | cons i is ih =>
    rcases walkWays_cons i is w t s with ⟨l, _, _, he⟩ | ⟨_, he⟩ <;> rw [he]
    · obtain ⟨hwalk, hbuffer⟩ := walkInvalidate_walk i l w s
      obtain ⟨hwalk', hbuffer'⟩ := ih (walkInvalidate i l w s).1 (if l.state = .setheld then l.setTag else t)
        (walkInvalidate i l w s).2
      exact ⟨hwalk'.trans hwalk, hbuffer' ∘ hbuffer⟩
    · exact ih w t s

theorem loseProtection_walk (t : SetTag) (s : State) : (loseProtection t s).pgd.walk = s.pgd.walk := by
  unfold loseProtection
  repeat' split
  all_goals rfl

namespace Follows
variable {s u : State}

theorem walkInvalidate (i : Nat) (l : Line) (w : Walk) (h : Follows s u) : Follows s (walkInvalidate i l w u).2 := by
  unfold Machine.walkInvalidate
  dsimp only
  repeat' split
  all_goals exact h.dropWay i

theorem walkWays (is : List Nat) (w : Walk) (t : Option SetTag) (h : Follows s u) :
    Follows s (walkWays is w t u).2.2 := by
  induction is generalizing w t u with
  | nil => exact h
  | cons i is ih =>
    rcases walkWays_cons i is w t u with ⟨l, _, _, he⟩ | ⟨_, he⟩ <;> rw [he]
    · exact ih _ _ (h.walkInvalidate i l w)
    · exact ih _ _ h

theorem walkEnd (w : Walk) (h : Follows s u) : Follows s (walkEnd w u) := by
  have ended {v : State} (hv : Follows s v) : Follows s (v.onPgd fun d => { d with walk := none }) :=
    hv.onPgd (.walk none fun _ _ hn => nomatch hn)
  unfold Machine.walkEnd
  dsimp only
  split
  · exact ended (v := post _ (post _ u)) h
  · exact ended (v := post _ u) h

theorem flushWalkStep (h : Follows s u) : Follows s (flushWalkStep u) := by
  unfold Machine.flushWalkStep
  split
  next w hw =>
    have hways := h.walkWays (List.range' (w.next * Config.ways) Config.ways) w none
    obtain ⟨hwalk, hbuffer⟩ := walkWays_walk (List.range' (w.next * Config.ways) Config.ways) w none u
    unfold Machine.walkStep
    extract_lets r v _ x
    have hv : Follows s v ∧ v.pgd.walk = some w := by
      unfold v
      split
      · exact ⟨hways.loseProtection _, (loseProtection_walk _ _).trans (hwalk.trans hw)⟩
      · exact ⟨hways, hwalk.trans hw⟩
    have hx : x.next = w.next + 1 := rfl
    split
    · exact hv.1.walkEnd x
    next hne =>
      refine hv.1.onPgd (.walk (some x) fun hok y hy => ?_)
      obtain ⟨hlt, hlen⟩ := hok w hv.2
      cases hy
      exact ⟨Nat.lt_of_le_of_ne (hx ▸ hlt) hne, hbuffer hlen⟩
  · exact h

end Follows
end Sys2Proof.Machine
end

section
/-!
What a step can do to what the part stores, continued: the Order Gate, the Sheet Tracker, the Delivery Unit and the Recovery
Controller. They change the directory alone, by endings, by a set's protection and by the relocking of reissued pages.
-/
namespace Sys2Proof.Machine

namespace Follows
variable {s u : State}

/-! ### The Order Gate and the Sheet Tracker -/

theorem checkDone (j : JobSlot) (h : Follows s u) : Follows s (checkDone j u) := by
  unfold Machine.checkDone
  dsimp only
  split <;> exact h

theorem returnEntry (r : Sheet) (h : Follows s u) : Follows s (returnEntry r u) := by
  unfold Machine.returnEntry
  dsimp only
  split <;> exact h

theorem withdrawAdmission (h : Follows s u) : Follows s (withdrawAdmission u) := by
  unfold Machine.withdrawAdmission
  dsimp only
  repeat' split
  · exact h
  · exact returnEntry (u := onJob _ _ (dropSheet _ (u.onLi _))) _ h
  · exact h

theorem reissueOrInvalidate (e : Ending) (r : Sheet) (h : Follows s u) : Follows s (reissueOrInvalidate e r u) := by
  unfold Machine.reissueOrInvalidate
  repeat' split
  · exact h
  · exact h.invalidateOwner _
  · exact h

theorem endSheet (t : Tag) (e : Ending) (h : Follows s u) : Follows s (endSheet t e u) := by
  unfold Machine.endSheet
  split
  · exact h
  next r _ =>
    have hleft : Follows s (clearInterlock t (onJob r.job e.count (dropSheet t u))) := h
    exact ((hleft.reissueOrInvalidate e r).checkDone _).watchGate _

theorem requestHalt (h : Follows s u) : Follows s (requestHalt u) := by
  unfold Machine.requestHalt
  split <;> exact h

theorem requestResume (h : Follows s u) : Follows s (requestResume u) := by
  unfold Machine.requestResume
  split <;> exact h

/-! ### The Delivery Unit -/

theorem markSuspect (t : Tag) (h : Follows s u) : Follows s (markSuspect t u) := by
  unfold Machine.markSuspect
  repeat' split
  all_goals exact h

theorem removeSettling (t : Tag) (h : Follows s u) : Follows s (removeSettling t u) := by
  unfold Machine.removeSettling
  dsimp only
  repeat' split
  · exact h
  all_goals exact h.endSheet t .removed

theorem joinSet (b : Bin) (r : Sheet) (h : Follows s u) : Follows s (joinSet b r u) := by
  unfold Machine.joinSet
  dsimp only
  repeat' split
  · exact h
  · exact h
  · exact h
  · exact loseProtection (u := u.onDlu _) _ h

theorem leaveB (b : Bin) (h : Follows s u) : Follows s (leaveB b u) := by
  unfold Machine.leaveB
  repeat' split
  · exact h
  · exact ((h.endSheet _ .compiled).joinSet b _).compileOwner _ _ _
  · exact (h.endSheet _ .delivered).releaseOwner _

theorem shiftA (b : Bin) (h : Follows s u) : Follows s (shiftA b u) := by
  unfold Machine.shiftA
  split <;> exact h

theorem advanceEjection (b : Bin) (t : Tag) (h : Follows s u) : Follows s (advanceEjection b t u) :=
  (((h.leaveB b).shiftA b).onStk _).onDlu _

theorem advanceExpiry (b : Bin) (h : Follows s u) : Follows s (advanceExpiry b u) := by
  unfold Machine.advanceExpiry
  dsimp only
  split <;> exact ((h.leaveB b).shiftA b).onDlu _

theorem ejectSet (b : Bin) (h : Follows s u) : Follows s (ejectSet b u) := by
  unfold Machine.ejectSet
  repeat' split
  next o _ _ =>
    exact ((((h.onOgt _).checkDone o.job).releaseSet _).onDlu _).onDlu _
  · exact h
  · exact h

theorem purgeStage (b : Bin) (st : Stage) (h : Follows s u) : Follows s (purgeStage b st u).1 := by
  unfold Machine.purgeStage
  split
  · exact h.removeSettling _
  · exact h

theorem purgeQueue (h : Follows s u) : Follows s (purgeQueue u).1 := by
  unfold Machine.purgeQueue
  split
  · exact (h.purgeStage _ .b).purgeStage _ .a
  · exact h

theorem reissueProtected (p : Protected) (h : Follows s u) : Follows s (reissueProtected p u) := watchGate u h

theorem purgeSet (h : Follows s u) : Follows s (purgeSet u) := by
  unfold Machine.purgeSet
  split
  · exact h
  next o _ =>
    split
    next l _ =>
      have hreissued := h.foldl l (g := fun v p => Machine.reissueProtected p v) fun v p hv => hv.reissueProtected p
      exact ((watched (hreissued.relockSet ⟨o.job, o.set⟩)).onDlu _).onDlu _
    · exact ((watched (((h.onOgt _).checkDone o.job).releaseSet ⟨o.job, o.set⟩)).onLi _).onDlu _

/-! ### The Recovery Controller -/

theorem retryTest (m : Misfeed) (h : Follows s u) : Follows s (retryTest m u) := by
  unfold Machine.retryTest
  repeat' split
  all_goals exact h

theorem enterAssess (h : Follows s u) : Follows s (enterAssess u) := by
  unfold Machine.enterAssess postJamReport
  split <;> exact h

theorem enterStop (h : Follows s u) : Follows s (enterStop u) := by
  unfold Machine.enterStop
  dsimp only
  split
  · exact ((h.onRcc _).onLi _).enterAssess
  · exact ((h.onRcc _).onLi _).requestHalt

theorem resumeClearance (h : Follows s u) : Follows s (resumeClearance u) := by
  unfold Machine.resumeClearance postJamReport
  split <;> exact h

theorem removeSuspects (l : List (Bin × Stage)) (h : Follows s u) : Follows s (removeSuspects l u).1 := by
  induction l generalizing u with
  | nil => exact h
  | cons x l ih =>
    unfold Machine.removeSuspects
    split
    · exact ih (h.removeSettling _)
    · exact ih h

theorem postSuspectRequests (l : List (Bin × Tag × Seq)) (h : Follows s u) : Follows s (postSuspectRequests l u) := by
  refine h.foldl _ fun v b hv => ?_
  split <;> exact hv

theorem relockReissues (h : Follows s u) : Follows s (relockReissues u) :=
  h.foldl _ fun _ e hv => hv.foldl _ fun _ k hw => watched (hw.relockLine e.seq k)

theorem rebuildWork (h : Follows s u) : Follows s (rebuildWork u) := by
  unfold Machine.rebuildWork
  extract_lets x v
  have hx : Follows s x.1 := removeSuspects (u := setPhase .jam .rebuild u) allStages h
  have hv : Follows s v := hx.postSuspectRequests x.2
  refine relockReissues ?_
  split
  · unfold purgeCompile
    dsimp only
    split
    · exact hv.purgeQueue.purgeSet.onLi _
    · exact hv.purgeQueue.purgeSet
  · exact hv

section
variable {cl : IncClass → State → State} (hc : ∀ c v, Follows s v → Follows s (cl c v))
include hc

theorem testTrayHold (h : Follows s u) : Follows s (testTrayHold cl u) := by
  unfold Machine.testTrayHold
  dsimp only
  split
  · exact hc _ _ h
  · exact h

theorem enterRetry (h : Follows s u) : Follows s (enterRetry cl u) := by
  unfold Machine.enterRetry
  extract_lets v w
  have hv : Follows s v := by
    unfold v
    repeat' split
    · exact h
    · exact h.retryTest _
    · exact h
  have hw : Follows s w := hv
  split
  · exact hc _ _ hw
  · exact testTrayHold hc hw

theorem testSupply (h : Follows s u) : Follows s (testSupply cl u) := by
  unfold Machine.testSupply
  split
  · exact h
  · exact hc _ _ h

theorem startPhase (c : IncClass) (h : Follows s u) : Follows s (startPhase cl c u) := by
  cases c with
  | interlock => exact requestHalt (u := State.onRcc _ _) h
  | jam => exact h.enterStop
  | misfeed => exact enterRetry hc h
  | supply => exact testSupply hc h

theorem resumeJam (p : Phase) (h : Follows s u) : Follows s (resumeJam cl p u) := by
  cases p with
  | stop => exact h.enterStop
  | assess => exact h.enterAssess
  | clearance | dispose | runout => exact h.resumeClearance
  | rebuild => exact hc _ _ h.rebuildWork
  | opened | shutWait | retry | trayHold | hold => exact h

theorem resumeMisfeed (h : Follows s u) : Follows s (resumeMisfeed cl u) := by
  unfold Machine.resumeMisfeed
  repeat' split
  · exact testTrayHold hc h
  · exact enterRetry hc h
  · exact testTrayHold hc h

theorem activate (c : IncClass) (h : Follows s u) : Follows s (activate cl c u) := by
  unfold Machine.activate
  split
  · exact startPhase hc (u := setStatus c .active u) c h
  · have hr : Follows s (setStatus c .active (u.onRcc fun r => { r with stack := r.stack.tail })) := h
    cases c with
    | interlock => exact requestHalt (u := State.onRcc _ _) hr
    | jam => exact resumeJam hc _ hr
    | misfeed => exact resumeMisfeed hc hr
    | supply => exact testSupply hc hr

end

theorem closeRecord (n : Nat) : ∀ c v, Follows s v → Follows s (closeRecord n c v) := by
  induction n with
  | zero => exact fun _ _ h => h
  | succ n ih =>
    intro c v h
    have resumed {w : State} (hw : Follows s w) : Follows s (resumePath c w) := by
      unfold resumePath
      split
      · exact hw.requestResume
      · exact hw
    have cleared (n : Notice) : Follows s (post n (clearRecord c v)) := h
    unfold Machine.closeRecord
    dsimp only
    repeat' split
    · exact h
    · exact resumed (activate ih _ (cleared _))
    · exact resumed (cleared _)

theorem close (c : IncClass) (h : Follows s u) : Follows s (close c u) := closeRecord 4 c u h

theorem openRecord (o : Occurrence) (h : Follows s u) : Follows s (openRecord o u) := by
  have hp : Follows s (placeRecord o u) := by
    unfold placeRecord preempt
    dsimp only
    repeat' split
    all_goals exact h
  have hr : Follows s (reportOpening o u (placeRecord o u)) := by
    unfold reportOpening
    split
    · exact hp.withdrawAdmission.watchGate u
    · exact hp
  unfold Machine.openRecord
  dsimp only
  split
  · exact startPhase (fun _ _ => close _) o.cls hr
  · exact hr

theorem mergeOccurrence (o : Occurrence) (i : Incident) (h : Follows s u) : Follows s (mergeOccurrence o i u) := by
  have hi : Follows s (onIncident o.cls (mergeRecord o) u) := h
  unfold Machine.mergeOccurrence
  dsimp only
  split
  · exact requestHalt (u := State.onRcc _ _) hi
  · unfold mergeJam
    split
    · exact hi.enterStop
    · exact hi
    · exact hi
  · split
    · exact hi.retryTest _
    · exact hi
  · unfold mergeSupply
    dsimp only
    repeat' split
    · exact testSupply (u := onIncident .supply _ _) (fun _ _ => close _) hi
    · exact testSupply (fun _ _ => close _) hi
    · exact hi
    · exact hi

/-- Taking an occurrence. -/
theorem raise (o : Occurrence) (h : Follows s u) : Follows s (raise o u) := by
  unfold Machine.raise
  repeat' split
  · exact h
  · exact h.openRecord o
  · exact h.mergeOccurrence o _

theorem raiseAt (c : Cause) (k : Checkpoint) (t : Option Tag) (h : Follows s u) : Follows s (raiseAt c k t u) := by
  unfold Machine.raiseAt
  split
  · refine raise _ (h.foldl _ fun v b hv => ?_)
    repeat' split
    · exact hv.markSuspect _
    · exact hv
    · exact hv
  · exact h.raise _

theorem supplyReport (h : Follows s u) : Follows s (supplyReport u) := by
  unfold Machine.supplyReport
  split
  · exact testSupply (fun _ _ => close _) h
  · exact h

theorem haltedReport (h : Follows s u) : Follows s (haltedReport u) := by
  unfold Machine.haltedReport
  repeat' split
  · exact h.enterAssess
  · exact h.rebuildWork.close .jam
  · exact h

theorem checkRunoutComplete (h : Follows s u) : Follows s (checkRunoutComplete u) := by
  unfold Machine.checkRunoutComplete runoutCompleteReport
  repeat' split
  · exact requestHalt (u := onIncident .jam _ u) h
  · exact h
  · exact h

theorem markLater (b : Bin) (q : Seq) (h : Follows s u) : Follows s (markLater b q u) :=
  h.foldl _ fun _ r hv => hv.markSuspect r.tag

theorem removePass (p : Sheet → Bool) (h : Follows s u) : Follows s (removePass p u) := by
  refine h.foldl _ fun v t hv => ?_
  unfold removeStranded
  dsimp only
  repeat' split
  · exact hv
  · exact hv.endSheet t .removed
  · exact (hv.endSheet t .removed).markLater _ _

theorem orderSheets (b : Bin) (l : List Sheet) (named : List Tag) (h : Follows s u) :
    Follows s (orderSheets b l u named).1 := by
  induction l generalizing u named with
  | nil => exact h
  | cons r l ih =>
    unfold Machine.orderSheets
    repeat' split
    · exact ih _ h
    · exact ih (u := setDisposition r.tag .purge u) _ h
    · exact ih _ h

theorem orderBins (l : List Bin) (named : List Tag) (h : Follows s u) : Follows s (orderBins l u named).1 := by
  induction l generalizing u named with
  | nil => exact h
  | cons b l ih => exact ih _ (h.orderSheets b _ _)

theorem enterRunout (named : List Tag) (h : Follows s u) : Follows s (enterRunout named u) := by
  refine foldl _ ?_ fun _ _ hv => hv
  unfold beginRunout
  split <;> exact h

theorem enterDispose (h : Follows s u) : Follows s (enterDispose u) := by
  unfold Machine.enterDispose
  extract_lets v x w y z
  have hv : Follows s v := removePass (u := setPhase .jam .dispose u) _ h
  have hw : Follows s w := (hv.removeSuspects allStages).removePass _
  have hz : Follows s z := (hw.orderBins (List.finRange 6) []).postSuspectRequests _
  split
  · exact hz.enterRunout _
  · exact hz.rebuildWork.close .jam

theorem absenceReport (r : Sheet) (b : Bin) (c : Bool) (h : Follows s u) : Follows s (absenceReport r b c u) := by
  unfold Machine.absenceReport
  dsimp only
  split
  · refine markLater _ _ (h.foldl _ fun v t hv => ?_)
    unfold divert
    repeat' split
    all_goals exact hv
  · exact h

end Follows
end Sys2Proof.Machine
end

section
/-!
What a step can do to what the part stores, concluded: every row of the table. The invariants of the retention DRAM, the
divider, the edges that wait, the Band Pool, the Page Directory and the flush walk follow (R41, R94, R113, R115, R118).
-/
namespace Sys2Proof.Machine

theorem request_change (x : Holder) (c : Capture) : Capture.Change c (c.request x) := by
  unfold Capture.request Capture.setWaiting
  repeat' split
  all_goals exact .rest rfl rfl

theorem boundary_change (limit : Nat) (x : Holder) (continues : Bool) (c : Capture) :
    Capture.Change c (c.boundary limit x continues) := by
  unfold Capture.boundary Capture.handOver
  cases x <;> repeat' split
  all_goals exact .rest rfl rfl

theorem stillTick_divider (interval : Nat) (m : Monitor) :
    (m.stillTick interval).partialCount = m.partialCount ∧ (m.stillTick interval).edges = m.edges := by
  unfold Monitor.stillTick
  dsimp only
  repeat' split
  all_goals exact ⟨rfl, rfl⟩

theorem coverTick_divider (period : Nat) (lines : CoverLines) (m : Monitor) :
    (m.coverTick period lines).partialCount = m.partialCount ∧ (m.coverTick period lines).edges = m.edges := by
  unfold Monitor.coverTick
  dsimp only
  split <;> exact ⟨rfl, rfl⟩

namespace Follows
variable {s u : State}

/-- A change of the monitor that is not one of its divider or its edges. -/
theorem monitor {f : Monitor → Monitor} (h : Follows s u) (hcount : (f u.ckm).partialCount = u.ckm.partialCount)
    (hedges : (f u.ckm).edges = u.ckm.edges) : Follows s (u.onCkm f) := h.onCkm (.rest rfl hcount hedges)

theorem request (x : Holder) (h : Follows s u) : Follows s (request x u) := h.onCre (request_change x _)

theorem boundary (x : Holder) (continues : Bool) (h : Follows s u) : Follows s (boundary x continues u) :=
  h.onCre (boundary_change _ x continues _)

/-! ### The capture writer and the replay reader -/

theorem present (b : Band) (h : Follows s u) : Follows s (present b u).1 := by
  have hp := h.place b.key b.index b.final b.data.length
  unfold Machine.present
  dsimp only
  repeat' split
  · exact h
  · exact hp.engine rfl rfl
  · exact hp

theorem band (h : Follows s u) : Follows s (band u) := by
  unfold Machine.band takeBand
  dsimp only
  repeat' split
  · exact h
  · exact (h.onLi _).engine rfl rfl
  · exact ((h.onLi _).present _).request _
  · exact (h.onLi _).present _
  · exact h

theorem writeTransferEnd (h : Follows s u) : Follows s (writeTransferEnd u) := by
  have completed (b : Band) (n : Nat) : Follows s (completeWrite b n u) :=
    ((h.onCre (f := fun c => { c with
      dram := Memory.writeRun c.dram (blockBase n) b.data, lengths := Cells.put c.lengths n b.data.length })
        (.store _ n b.data)).writeCompleted b.key b.final).engine rfl rfl
  have next {v : State} (hv : Follows s v) : Follows s (nextWrite v) := by
    unfold nextWrite presentWaiting
    dsimp only
    split
    · exact hv.boundary _ _
    · exact ((hv.engine rfl rfl).present _).boundary _ _
  unfold Machine.writeTransferEnd
  split
  · exact watched (next (watched (completed _ _)))
  · exact h

theorem tryReplay (c : CallReq) (h : Follows s u) : Follows s (tryReplay c u) := by
  unfold Machine.tryReplay
  split
  next hl => exact ((h.pinLine hl).engine rfl rfl).request _
  · exact h.raise _

theorem startPending (h : Follows s u) : Follows s (startPending u) := by
  unfold Machine.startPending
  split
  · exact h
  · exact (h.engine rfl rfl).tryReplay _

theorem call (t : Tag) (side : Side) (h : Follows s u) : Follows s (call t side u) := by
  have handed (c : CallReq) : Follows s (handCall c u) := by
    have hr := h.tryReplay c
    unfold handCall startReplay
    dsimp only
    repeat' split
    · exact hr.startPending
    · exact hr
    · exact h.raise _
    · exact h.engine rfl rfl
  unfold Machine.call
  repeat' split
  · exact h
  · exact handed _
  · exact h.raise _

theorem giveBand (c : CallReq) (b : ReadBand) (h : Follows s u) : Follows s (giveBand c b u) := (h.onLi _).engine rfl rfl

theorem readTransferEnd (h : Follows s u) : Follows s (readTransferEnd u) := by
  have streamed (c : CallReq) (chain : List Nat) (n : Nat) : Follows s (readEndStreaming c chain n u) := by
    unfold readEndStreaming
    dsimp only
    split
    · exact ((h.engine rfl rfl).giveBand _ _).boundary _ _
    · exact (h.engine rfl rfl).boundary _ _
  unfold Machine.readTransferEnd
  repeat' split
  · exact streamed _ _ _
  · exact ((h.boundary _ _).engine rfl rfl).startPending
  · exact h.boundary _ _
  · exact h

theorem bandoutGiven (h : Follows s u) : Follows s (bandoutGiven u) := by
  unfold Machine.bandoutGiven
  dsimp only
  repeat' split
  · exact (h.giveBand _ _).request _
  · exact h.giveBand _ _
  · exact h

theorem imagingDone (c : CallReq) (h : Follows s u) : Follows s (imagingDone c u) := by
  have hline := watched (h.imagingDoneLine c.key)
  have hsheet : Follows s (imagingDoneSheet c.tag c.side (Machine.watched (Machine.imagingDoneLine c.key) u)) := by
    unfold imagingDoneSheet
    split
    · split
      · exact hline.onStk _
      · exact hline
    · exact hline
  exact (hsheet.engine rfl rfl).startPending

theorem bandoutSent (h : Follows s u) : Follows s (bandoutSent u) := by
  unfold Machine.bandoutSent
  dsimp only
  repeat' split
  · exact ((h.onLi _).imagingDone _).onLi _
  · exact h
  · exact h

theorem haltSent (h : Follows s u) : Follows s (haltSent u) := by
  have abandoned {v : State} (hv : Follows s v) : Follows s (abandonReplay v) := by
    unfold abandonReplay
    split
    · refine (hv.unpinAbandoned _).onCre ?_
      dsimp only
      split <;> exact .rest rfl rfl
    · exact hv.engine rfl rfl
    · exact hv
  unfold Machine.haltSent
  split
  · exact (abandoned ((h.onLi _).onCkm (.restart rfl (.inl rfl)))).onLi _
  · exact h

/-! ### The engine's status and the reception of frames -/

theorem setEmpty (t : Tray) (v : Bool) (h : Follows s u) : Follows s (setEmpty t v u) := by
  unfold Machine.setEmpty
  dsimp only
  split
  · exact h
  · exact (h.onOgt _).supplyReport

theorem setFull (b : Bin) (v : Bool) (h : Follows s u) : Follows s (setFull b v u) := by
  unfold Machine.setFull
  dsimp only
  split
  · exact h
  · exact (h.onDlu _).supplyReport

theorem readBinFull (b : Bin) (h : Follows s u) : Follows s (readBinFull b u) := by
  have hw := watched (h.setFull b true)
  have marked (st : Stage) {v : State} (hv : Follows s v) : Follows s (markStage b st v) := by
    unfold markStage
    split
    · exact hv.markSuspect _
    · exact hv
  have hf : Follows s (binFault b (Machine.watched (Machine.setFull b true) u)) := by
    unfold binFault
    split
    · exact hw
    · exact (marked .b (marked .a hw)).raise _
  unfold Machine.readBinFull
  dsimp only
  split
  · exact hf.raise _
  · exact hw

theorem readCompileFault (b : Bin) (h : Follows s u) : Follows s (readCompileFault b u) := by
  unfold Machine.readCompileFault
  split
  · exact h.raise _
  · exact h

theorem receive (p : Port) (bytes : List Byte) (h : Follows s u) : Follows s (receive p bytes u) := by
  have hread (x : Status) : Follows s (readStatusFrame x u) := by
    cases x with
    | trayEmpty t => exact h.setEmpty t true
    | trayFilled t => exact h.setEmpty t false
    | binFull b => exact h.readBinFull b
    | binCleared b => exact h.setFull b false
    | setEjected b => exact h.ejectSet b
    | compileFault b => exact h.readCompileFault b
    | engineFault code => exact h.raise _
  unfold Machine.receive goodFrame engstat
  repeat' split
  · exact h
  · exact h
  · exact h
  · exact h.call _ _
  · exact (hread _).onLi _
  · exact h

theorem engstatUnread (body : List Byte) (h : Follows s u) : Follows s (engstatUnread body u) := by
  unfold Machine.engstatUnread
  split <;> exact h

theorem engcmd (h : Follows s u) : Follows s (engcmd u) := by
  unfold Machine.engcmd
  repeat' split
  all_goals exact h

theorem uFrameSent (h : Follows s u) : Follows s (uFrameSent u) := by
  unfold Machine.uFrameSent
  split <;> exact h

theorem eFrameSent (h : Follows s u) : Follows s (eFrameSent u) := by
  unfold Machine.eFrameSent
  split <;> exact h

/-! ### Sensing and time -/

theorem checkpointSample (lines : CheckpointLines) (h : Follows s u) : Follows s (checkpointSample lines u) :=
  h.onCkm (.sample _ _ lines)

theorem tpEdge (h : Follows s u) : Follows s (u.onCkm (Monitor.tpEdge u.pds.timing.tdiv)) := h.onCkm (.pulse _ _)

theorem wallTick (lines : CoverLines) (h : Follows s u) : Follows s (wallTick lines u) := by
  have hstill := stillTick_divider u.pds.timing.stillMs u.ckm
  have hcover := coverTick_divider u.pds.timing.coverSampleMs lines (u.ckm.stillTick u.pds.timing.stillMs)
  exact ((h.monitor (hcover.1.trans hstill.1) (hcover.2.trans hstill.2)).onDlu _).onRcc _

theorem countAdvance (h : Follows s u) : Follows s (countAdvance u) := by
  unfold Machine.countAdvance
  split
  · exact h
  · exact (h.monitor rfl rfl).onStk _

theorem pathStill (h : Follows s u) : Follows s (pathStill u) := by
  have completed {v : State} (hv : Follows s v) : Follows s (completeHalt v) := by
    have hw := watched (hv.onStk fun k => { k with path := .halted, sheets := k.sheets.map Sheet.strand })
    unfold completeHalt
    dsimp only
    split
    · exact (hw.raise _).haltedReport
    · exact hw.haltedReport
  unfold Machine.pathStill
  dsimp only
  repeat' split
  · exact completed (h.monitor rfl rfl)
  · exact h.monitor rfl rfl
  · exact h

theorem coverOpen (c : Cover) (first : Bool) (h : Follows s u) : Follows s (coverOpen c first u) := by
  have hp : Follows s (popCoverEvent c u) := h.monitor rfl rfl
  have stranded {v : State} (hv : Follows s v) : Follows s (strandOpen v) := by
    unfold strandOpen
    split
    · exact hv.raise _
    · exact hv
  unfold Machine.coverOpen
  dsimp only
  repeat' split
  · exact (stranded hp).raise _
  · exact stranded (hp.raise _)
  · exact h

theorem coverShut (c : Cover) (h : Follows s u) : Follows s (coverShut c u) := by
  have hp : Follows s (popCoverEvent c u) := h.monitor rfl rfl
  unfold Machine.coverShut takeShut
  repeat' split
  · exact (hp.onRcc _).onRcc _
  · exact hp
  · exact h

theorem coverSettleExpiry (h : Follows s u) : Follows s (coverSettleExpiry u) := by
  unfold Machine.coverSettleExpiry
  split
  · exact h.close .interlock
  · exact h

/-! ### Edges -/

theorem popEdge (c : Checkpoint) (covered : Bool) (h : Follows s u) : Follows s (popEdge c covered u) :=
  (h.onCkm (.pop _ _ c)).onStk _

theorem matchLead (faults : Bool) (c : Checkpoint) (n : Count) (h : Follows s u) : Follows s (matchLead faults c n u) := by
  have faulty (cause : Cause) (k : Checkpoint) (t : Option Tag) :
      Follows s (if faults then Machine.raiseAt cause k t u else u) := by
    split
    · exact h.raiseAt _ _ _
    · exact h
  unfold Machine.matchLead
  split
  · exact faulty _ _ _
  · split
    · exact faulty _ _ _
    · split
      · unfold matchSheet
        dsimp only
        split
        · exact faulty _ _ _
        · split <;> exact h
      · exact faulty _ _ _

theorem leadEdge (c : Checkpoint) (h : Follows s u) : Follows s (leadEdge c u) := by
  have hp := h.popEdge c true
  unfold Machine.leadEdge
  dsimp only
  repeat' split
  · exact hp
  · exact hp.matchLead _ c _
  · exact h
  · exact h

theorem failJoin (b : Bin) (x : Sheet) (h : Follows s u) : Follows s (failJoin b x u) := (h.markSuspect x.tag).raise _

theorem handOver (c : Checkpoint) (r : Sheet) (h : Follows s u) : Follows s (handOver c r u) := by
  unfold Machine.handOver
  extract_lets b v
  have hv : Follows s v := by
    unfold v
    split
    · exact h.failJoin _ _
    · exact h
  split
  · exact hv.advanceEjection _ _
  · exact hv.raise _

theorem exitSheet (c : Checkpoint) (r : Sheet) (h : Follows s u) : Follows s (exitSheet c r u) := by
  have hc : Follows s (clearOccupied r.tag u) := h.onStk _
  unfold Machine.exitSheet removeAtExit
  dsimp only
  repeat' split
  · exact hc.raiseAt _ _ _
  · exact ((hc.endSheet _ _).onLi _).checkRunoutComplete
  · exact (hc.handOver c r).checkRunoutComplete

theorem takeTrail (faults : Bool) (c : Checkpoint) (n : Count) (h : Follows s u) : Follows s (takeTrail faults c n u) := by
  unfold Machine.takeTrail releaseEntry purgeSheet
  dsimp only
  split
  · repeat' split
    · exact (((h.onStk _).onStk _).endSheet _ _).checkRunoutComplete
    · exact (h.onStk _).exitSheet c _
    · exact h.onStk _
    · exact h.onStk _
  · split
    · exact h.raiseAt _ _ _
    · exact h

theorem trailEdge (c : Checkpoint) (h : Follows s u) : Follows s (trailEdge c u) := by
  have hp := h.popEdge c false
  unfold Machine.trailEdge
  dsimp only
  repeat' split
  · exact hp
  · exact hp.takeTrail _ c _
  · exact h
  · exact h

/-! ### Deadlines and the settle timer -/

theorem leadWindowExpiry (h : Follows s u) : Follows s (leadWindowExpiry u) := by
  unfold Machine.leadWindowExpiry leadExpired misfeed
  dsimp only
  repeat' split
  · exact ((h.onStk _).endSheet _ _).raise _
  · exact (h.onStk _).raiseAt _ _ _
  · exact h.onStk _
  · exact h

theorem trailDeadlineExpiry (h : Follows s u) : Follows s (trailDeadlineExpiry u) := by
  unfold Machine.trailDeadlineExpiry trailExpired
  repeat' split
  · exact (h.onStk _).raiseAt _ _ _
  · exact h.onStk _
  · exact h

theorem runoutDeadlineExpiry (h : Follows s u) : Follows s (runoutDeadlineExpiry u) := by
  unfold Machine.runoutDeadlineExpiry runoutExpired
  repeat' split
  · exact (((h.onStk _).endSheet _ _).absenceReport _ _ _).checkRunoutComplete
  · exact h.onStk _
  · exact h

theorem settleTimerExpiry (b : Bin) (h : Follows s u) : Follows s (settleTimerExpiry b u) := by
  unfold Machine.settleTimerExpiry
  repeat' split
  · exact h.failJoin _ _
  · exact h.advanceExpiry b
  · exact h

/-! ### Orders and admission -/

theorem order (h : Follows s u) : Follows s (order u) := by
  have accepted (o : OrderBody) {v : State} (hv : Follows s v) : Follows s (acceptOrder o v) := by
    have hclaimed := ((hv.onOgt fun g => { g with seqCounter := v.ogt.seqCounter + 1, orq := g.orq ++
      [⟨v.ogt.seqCounter, o.job, o.snapshot v, false, none, 0⟩] }).onOgt fun g =>
        { g with jobs := upd g.jobs o.job fun b => { b with orq := b.orq + 1 } }).foldl (o.snapshot v).keys
          (g := fun w k => Machine.claimLine v.ogt.seqCounter k w) fun _ k hw => hw.claimLine _ k
    unfold acceptOrder
    dsimp only
    split
    · exact hclaimed.onOgt _
    · exact hclaimed
  unfold Machine.order judgeOrder
  repeat' split
  · exact h
  · exact h
  · exact accepted _ (h.onLi _)
  · exact h

theorem admitGateHead (h : Follows s u) : Follows s (admitGateHead u) := by
  unfold Machine.admitGateHead openAdmission leaveList
  dsimp only
  repeat' split
  all_goals exact h

/-! ### Requests -/

theorem reply (q : Request) (r : ReplyCode) (b : List Byte) (h : Follows s u) : Follows s (reply q r b u) := h

theorem takeRequest (wanted : Request → Bool) {act : Request → State → State} (ha : RowClosed.Owner (Follows s) act)
    (h : Follows s u) : Follows s (takeRequest wanted act u) := by
  unfold Machine.takeRequest
  dsimp only
  repeat' split
  · exact h
  · exact h
  · exact ha _ _ (h.onLi _)
  · exact h

theorem inSetup {act : Request → State → State} (ha : RowClosed.Owner (Follows s) act) :
    RowClosed.Owner (Follows s) (inSetup act) := by
  intro q u h
  unfold Machine.inSetup
  split
  · exact h
  · exact ha q u h

theorem resetPart : RowClosed.Owner (Follows s) resetPart := fun _ _ h =>
  ⟨h.1.tail (.reset rfl rfl rfl), h.2.1.tail (.rest rfl rfl), h.2.2.tail (.restart rfl (.inl rfl))⟩

theorem loadRoute : RowClosed.Owner (Follows s) loadRoute := by
  intro q u h
  unfold Machine.loadRoute
  split <;> exact h

theorem unloadRoute : RowClosed.Owner (Follows s) unloadRoute := by
  intro q u h
  unfold Machine.unloadRoute
  repeat' split
  all_goals exact h

theorem loadBin : RowClosed.Owner (Follows s) loadBin := by
  intro q u h
  unfold Machine.loadBin writeBin
  repeat' split
  all_goals exact h

theorem loadTray : RowClosed.Owner (Follows s) loadTray := by
  intro q u h
  unfold Machine.loadTray
  split <;> exact h

/-- New timing values: the divider begins anew when TDIV has changed (R25). -/
theorem applyTiming (t : Timing) (h : Follows s u) : Follows s (applyTiming t u) := by
  rw [applyTiming_eq]
  refine ⟨h.1, h.2.1, h.2.2.tail ?_⟩
  by_cases ht : t.tdiv = u.pds.timing.tdiv
  · exact .rest ht (if_pos ht) rfl
  · exact .restart (if_neg ht) (.inl rfl)

theorem setTiming : RowClosed.Owner (Follows s) setTiming := by
  intro q u h
  unfold Machine.setTiming
  dsimp only
  repeat' split
  · exact h
  · exact h
  · exact (h.applyTiming _).onLi _

theorem start : RowClosed.Owner (Follows s) start := by
  intro q u h
  have hstarted : Follows s ((u.onPds fun p => { p with mode := .running }).onStk fun k => { k with path := .moving }) := h
  unfold Machine.start carryOutStart
  dsimp only
  repeat' split
  · exact h
  · exact (hstarted.reply q .done []).raise _
  · exact hstarted
  · exact h

theorem stop : RowClosed.Owner (Follows s) stop := by
  intro q u h
  unfold Machine.stop
  repeat' split
  all_goals exact h

theorem readBin : RowClosed.Owner (Follows s) readBin := by
  intro q u h
  unfold Machine.readBin
  split <;> exact h

theorem setRetentionMode : RowClosed.Owner (Follows s) setRetentionMode := by
  intro q u h
  unfold Machine.setRetentionMode
  repeat' split
  · exact h
  · exact (h.onPgd (.rest rfl rfl rfl)).reply _ _ _
  · exact h

theorem inquirePage : RowClosed.Owner (Follows s) inquirePage := by
  intro q u h
  unfold Machine.inquirePage
  split <;> exact h

theorem dropPage : RowClosed.Owner (Follows s) dropPage := by
  intro q u h
  unfold Machine.dropPage dropLine
  dsimp only
  split
  · exact h
  · split
    · exact h
    next i l _ =>
      have hgone := h.dropWay i
      repeat' split
      · exact h
      · exact h
      · exact h
      · exact h
      · exact hgone.reply _ _ _
      · exact hgone.reply _ _ _
      · exact (hgone.loseProtection _).reply _ _ _
      · exact hgone.reply _ _ _

theorem flush : RowClosed.Owner (Follows s) flush := by
  intro q u h
  have hbegun (sets report : Bool) : Follows s (u.onPgd fun d => { d with walk := some ⟨0, sets, report, 0, []⟩ }) :=
    h.onPgd (.walk _ fun _ _ hw => Option.some.inj hw ▸ ⟨Nat.zero_lt_succ 63, Nat.zero_lt_succ 15⟩)
  unfold Machine.flush
  split
  · exact h
  · exact hbegun _ _

theorem openJob : RowClosed.Owner (Follows s) openJob := by
  intro q u h
  unfold Machine.openJob
  dsimp only
  repeat' split
  all_goals exact h

theorem closeJob : RowClosed.Owner (Follows s) closeJob := by
  intro q u h
  unfold Machine.closeJob
  repeat' split
  · exact h
  · exact ((h.onOgt _).onLi _).checkDone _
  · exact h

theorem cancelJob : RowClosed.Owner (Follows s) cancelJob := by
  intro q u h
  have hlines (l : List Entry) {v : State} (hv : Follows s v) : Follows s (invalidateEntries l v) :=
    hv.foldl l fun _ e hw => hw.invalidateOwner e.seq
  have hset (j : JobSlot) {v : State} (hv : Follows s v) : Follows s (cancelSet j v) := by
    have hlost (x : SetTag) := hv.loseProtection x
    unfold cancelSet
    dsimp only
    repeat' split
    · exact (hlost _).onOgt _
    · exact hv
    · exact hv
    · exact hlost _
    · exact hv
    · exact hv
    · exact hlost _
    · exact hv
    · exact hv
  unfold Machine.cancelJob Machine.cancel
  dsimp only
  repeat' split
  · exact h
  · exact h
  · exact ((hset _ ((hlines _ (((hlines _ ((h.onOgt _).onOgt _)).onOgt _).onOgt _)).onOgt _)).onLi _).checkDone _

theorem trayReady : RowClosed.Owner (Follows s) trayReady := by
  intro q u h
  have hheld (t : Tray) : Follows s (clearHeld t u) := by
    unfold clearHeld
    dsimp only
    repeat' split
    all_goals exact h
  have hreported (t : Tray) : Follows s (trayReadyReport (clearHeld t u)) := by
    unfold trayReadyReport
    split
    · exact testTrayHold (fun _ _ => close _) (hheld t)
    · exact hheld t
  unfold Machine.trayReady
  repeat' split
  · exact h
  · exact (hreported _).onLi _
  · exact h

theorem confirmClear : RowClosed.Owner (Follows s) confirmClear := by
  intro q u h
  unfold Machine.confirmClear
  repeat' split
  · exact (h.onLi _).enterDispose
  · exact h
  · exact h

end Follows

/-! ### Every row -/

/-- An event, watched, or nothing under PORST. -/
theorem event_follows {f : State → State} {s t : State} (ht : event f s = .next t) (hf : Follows s (f s)) : Follows s t := by
  unfold event at ht
  split at ht
  · cases ht; exact Follows.refl s
  · cases ht; exact hf.watchGate s

theorem onRequest_follows {code : Nat} {act : Request → State → State} {s t : State}
    (ht : onRequest code act s = .next t) (ha : RowClosed.Owner (Follows s) act) : Follows s t :=
  event_follows ht ((Follows.refl s).takeRequest _ ha)

/-- A status row: its block reads the status, and the frame is passed up (R9). -/
theorem statusRow_follows (f : State → State) {x : Frame} {s t : State} (hf : Follows s (f s))
    (ht : event (fun v => (f v).onLi (Link.passUp x)) s = .next t) : Follows s t := event_follows ht (hf.onLi _)

/-- What a command can do to what the part stores. -/
theorem exec_follows (c : Instr) {s t : State} (ht : exec c s = .next t) : Follows s t := by
  have h := Follows.refl s
  have reply (q : Request) (r : ReplyCode) (b : State → List Byte) (u : State) (hu : Follows s u) :
      Follows s (reply q r (b u) u) := hu
  cases c with
  | porstAssert => cases ht; unfold assertPorst; split <;> exact h
  | porstRelease =>
    cases ht; unfold releasePorst; split
    · exact ⟨.single (.reset rfl rfl rfl), .single (.reset rfl rfl), .single (.restart rfl (.inr rfl))⟩
    · exact h
  | writeTransferEnd =>
    change (if s.porst then _ else _) = _ at ht
    split at ht
    · cases ht; exact h
    · cases ht; exact h.writeTransferEnd
  | frameReceived p bytes => exact event_follows ht (h.receive p bytes)
  | order => exact event_follows ht h.order
  | band => exact event_follows ht h.band
  | engcmd => exact event_follows ht h.engcmd
  | mgmtUnknownRequest => exact event_follows ht (h.takeRequest _ fun q => reply q _ fun _ => [])
  | readStatus => exact onRequest_follows ht (fun _ _ hu => hu)
  | resetPart => exact onRequest_follows ht Follows.resetPart
  | loadRoute => exact event_follows ht (h.takeRequest _ (.inSetup .loadRoute))
  | unloadRoute => exact event_follows ht (h.takeRequest _ (.inSetup .unloadRoute))
  | loadBin => exact onRequest_follows ht (.inSetup .loadBin)
  | loadTray => exact onRequest_follows ht (.inSetup .loadTray)
  | setTiming => exact onRequest_follows ht (.inSetup .setTiming)
  | start => exact onRequest_follows ht (.inSetup .start)
  | stop => exact onRequest_follows ht Follows.stop
  | readSheets => exact onRequest_follows ht (fun q => reply q _ _)
  | readBin => exact onRequest_follows ht Follows.readBin
  | setRetentionMode => exact onRequest_follows ht Follows.setRetentionMode
  | inquirePage => exact onRequest_follows ht Follows.inquirePage
  | dropPage => exact onRequest_follows ht Follows.dropPage
  | flush => exact onRequest_follows ht Follows.flush
  | flushWalkStep => exact event_follows ht h.flushWalkStep
  | openJob => exact onRequest_follows ht Follows.openJob
  | closeJob => exact onRequest_follows ht Follows.closeJob
  | cancelJob => exact onRequest_follows ht Follows.cancelJob
  | trayReady => exact onRequest_follows ht Follows.trayReady
  | readQueues => exact onRequest_follows ht (fun q => reply q _ _)
  | readIncidents => exact onRequest_follows ht (fun q => reply q _ _)
  | confirmClear => exact onRequest_follows ht Follows.confirmClear
  | call tag side => exact event_follows ht (h.call tag side)
  | trayEmpty t rest => exact statusRow_follows (setEmpty t true) (h.setEmpty t true) ht
  | trayFilled t rest => exact statusRow_follows (setEmpty t false) (h.setEmpty t false) ht
  | binFull b rest => exact statusRow_follows (readBinFull b) (h.readBinFull b) ht
  | binCleared b rest => exact statusRow_follows (setFull b false) (h.setFull b false) ht
  | setEjected b rest => exact statusRow_follows (ejectSet b) (h.ejectSet b) ht
  | engineFault code => exact statusRow_follows (readEngineFault code) (h.raise _) ht
  | compileFault b rest => exact statusRow_follows (readCompileFault b) (h.readCompileFault b) ht
  | engstatUnread body => exact event_follows ht (h.engstatUnread body)
  | uFrameSent => exact event_follows ht h.uFrameSent
  | eFrameSent => exact event_follows ht h.eFrameSent
  | haltSent => exact event_follows ht h.haltSent
  | bandoutSent => exact event_follows ht h.bandoutSent
  | bandoutGiven => exact event_follows ht h.bandoutGiven
  | readTransferEnd => exact event_follows ht h.readTransferEnd
  | leadEdge ck => exact event_follows ht (h.leadEdge ck)
  | trailEdge ck => exact event_follows ht (h.trailEdge ck)
  | coverOpen c first => exact event_follows ht (h.coverOpen c first)
  | coverShut c => exact event_follows ht (h.coverShut c)
  | tpEdge => exact event_follows ht h.tpEdge
  | countAdvance => exact event_follows ht h.countAdvance
  | leadWindowExpiry => exact event_follows ht h.leadWindowExpiry
  | trailDeadlineExpiry => exact event_follows ht h.trailDeadlineExpiry
  | runoutDeadlineExpiry => exact event_follows ht h.runoutDeadlineExpiry
  | pathStill => exact event_follows ht h.pathStill
  | settleTimerExpiry b => exact event_follows ht (h.settleTimerExpiry b)
  | coverSettleExpiry => exact event_follows ht h.coverSettleExpiry
  | admitGateHead => exact event_follows ht h.admitGateHead
  | wallTick lines => exact event_follows ht (h.wallTick lines)
  | checkpointSampleInstant lines => exact event_follows ht (h.checkpointSample lines)

/-- What a step can do to what the part stores: it runs one row on the rest of the queue, or idles. -/
theorem step_follows {s t : State} (ht : step s = .next t) : Follows s t := by
  unfold step at ht
  split at ht
  · cases ht; exact Follows.refl s
  next rest _ => exact exec_follows _ (s := { s with pending := rest }) ht

end Sys2Proof.Machine

namespace Sys2Proof.Proofs
open Sys2Proof.Machine

/-- Settles O57: every step is made of changes that keep the DRAM canonical, the divider in range and the edges in groups. -/
theorem stepKeepsStorage : Obligations.StepKeepsStorage := by
  unfold Obligations.StepKeepsStorage
  intro s t ht
  obtain ⟨_, hcre, hsensing⟩ := step_follows ht
  exact ⟨reflTransGen_kept (P := DramOk) Capture.Change.dramOk hcre,
    reflTransGen_kept (P := fun x => x.2.partialCount < 2 ^ x.1) Monitor.Change.divider hsensing,
    reflTransGen_kept (P := fun x => EdgesOk x.2) Monitor.Change.edgesOk hsensing⟩

/-- Settles O58: every step is made of changes that keep the pool, the pages and the flush walk in order. -/
theorem stepKeepsDirectory : Obligations.StepKeepsDirectory := by
  unfold Obligations.StepKeepsDirectory
  exact ⟨fun s t hpool hdir ht =>
      reflTransGen_kept (P := Directory.InOrder) Directory.Change.inOrder (step_follows ht).1 ⟨hpool, hdir⟩,
    fun s t hwalk ht => reflTransGen_kept (P := WalkOk) Directory.Change.walkOk (step_follows ht).1 hwalk⟩

end Sys2Proof.Proofs
end

section
/-!
The requests of the Page Directory (R97, R111, R112): SET RETENTION MODE, DROP PAGE and FLUSH, case by case.
-/
namespace Sys2Proof.Machine

section
variable {q : Request} (s : State)

theorem setRetentionMode_refused
    (h : 2 ≤ byteAt q.body 3 ∨ 2 ≤ byteAt q.body 4 ∨ (byteAt q.body 3 = 0 ∧ byteAt q.body 4 = 1)) :
    setRetentionMode q s = s.replied q .refusedInvalid [] := by
  rcases h with h | h | ⟨hp, he⟩
  · simp only [setRetentionMode, yesNoAt_eq_none h]
    rfl
  · simp only [setRetentionMode, yesNoAt_eq_none h]
    split
    next hv => cases hv
    next => rfl
  · simp only [setRetentionMode, yesNoAt_eq_some (v := false) hp.symm, yesNoAt_eq_some (v := true) he.symm]
    rfl

theorem setRetentionMode_done {p e : Bool} (hp : p.toNat = byteAt q.body 3) (he : e.toNat = byteAt q.body 4)
    (hpe : p = false → e = false) :
    setRetentionMode q s = (s.onPgd fun d => { d with keepPath := p, keepSet := e }).replied q .done [] := by
  have hok : ¬((!p && e) = true) := by
    cases p with
    | false => simp [hpe rfl]
    | true => simp
  simp only [setRetentionMode, yesNoAt_eq_some hp, yesNoAt_eq_some he]
  exact if_neg hok

theorem dropPage_noSlot (h : 8 ≤ byteAt q.body 3) : dropPage q s = s.replied q .refusedInvalid [] := by
  simp only [dropPage, keyAt, index?_eq_none h, Option.map_none]
  rfl

section
variable {s} {j : JobSlot} (hj : j.val = byteAt q.body 3)
include hj

theorem dropPage_absent (h : s.pgd.lookup ⟨j, pageAt q.body 4⟩ = none) :
    dropPage q s = s.replied q .refusedState [] := by
  simp only [dropPage, keyAt, index?_eq_some hj, Option.map_some, h]
  rfl

theorem dropPage_present {i : Nat} {l : Line} (h : s.pgd.lookup ⟨j, pageAt q.body 4⟩ = some (i, l)) :
    dropPage q s = dropLine q i l s := by
  simp only [dropPage, keyAt, index?_eq_some hj, Option.map_some, h]

end

variable (i : Nat) {l : Line}

theorem dropLine_busy
    (h : l.pin = true ∨ l.state = .filling ∨ l.state = .locked ∨ (l.state = .ready ∧ l.owner.isSome)) :
    dropLine q i l s = s.replied q .refusedBusy [] := by
  unfold dropLine
  dsimp only
  by_cases hp : l.pin = true
  · rw [if_pos hp]
    rfl
  · rw [if_neg hp]
    rcases h with h | h | h | ⟨h, ho⟩
    · exact absurd h hp
    · simp only [h]
      rfl
    · simp only [h]
      rfl
    · simp only [h, ho, if_true]
      rfl

theorem dropLine_drops (hp : l.pin = false) (h : l.state = .released ∨ (l.state = .ready ∧ l.owner = none)) :
    dropLine q i l s = (s.onPgd (Directory.dropWay i)).replied q .done (num1 l.state.code) := by
  unfold dropLine
  rcases h with h | ⟨h, ho⟩
  · simp only [hp, h]
    rfl
  · simp only [hp, h, ho]
    rfl

/-- A SETHELD line that goes takes the protection of its set with it (R88, R111). -/
theorem dropLine_setheld {t : SetTag} (hp : l.pin = false) (h : l.state = .setheld) (ht : l.setTag = some t) :
    dropLine q i l s = (loseProtection t (s.onPgd (Directory.dropWay i))).replied q .done (num1 l.state.code) := by
  unfold dropLine
  simp only [hp, h, ht]
  rfl

theorem flush_walking (h : s.pgd.walk.isSome) : flush q s = s.replied q .refusedBusy [] := if_pos h

theorem flush_begins (h : s.pgd.walk = none) : flush q s =
    (post (.flushBegin (optionAt q.body 3) (optionAt q.body 4)) (s.onPgd fun d =>
      { d with walk := some ⟨0, optionAt q.body 3, optionAt q.body 4, 0, []⟩ })).replied q .done [] :=
  if_neg (by simp [h])

end

theorem pairClass_eq (d : Directory) : d.pairClass = if d.keepSet then .full else if d.keepPath then .path else .none := rfl

end Sys2Proof.Machine

namespace Sys2Proof.Proofs
open Sys2Proof.Machine

/-- Settles O21: the pair of flags by their bytes; DROP PAGE by the line it finds. -/
theorem retentionModeAndDropPage : Obligations.RetentionModeAndDropPage := by
  unfold Obligations.RetentionModeAndDropPage
  refine ⟨⟨⟨rfl, rfl⟩, fun s => ⟨rfl, rfl⟩, pairClass_eq, fun s q rest h hc hn => ?mode⟩, fun s q rest h hc hn => ?drop⟩
  case mode =>
    have hl := requestLengthOk_of_row (c := .setRetentionMode) (by simp [requestRows]) hc hn
    exact ⟨fun hf => event_answered h (decide_eq_true hc) hl (setRetentionMode_refused _ hf) rfl,
      fun p e hp he hpe => event_answered h (decide_eq_true hc) hl (setRetentionMode_done _ hp he hpe) rfl⟩
  case drop =>
    have hl := requestLengthOk_of_row (c := .dropPage) (by simp [requestRows]) hc hn
    have hw := decide_eq_true hc
    refine ⟨fun hj => event_answered h hw hl (dropPage_noSlot _ hj) rfl, fun j hj => ?_⟩
    intro k
    refine ⟨fun hk => ?_, fun i l hk => ?_⟩
    · exact event_answered h hw hl (dropPage_absent (s := s.taken rest) hj hk) rfl
    have hline : dropPage q (s.taken rest) = dropLine q i l (s.taken rest) := dropPage_present hj hk
    have hrun : exec .dropPage s = .next (watchGate s (dropLine q i l (s.taken rest))) :=
      hline ▸ onRequest_taken dropPage h hc hl
    refine ⟨fun hb => ?_, fun hp hd => ?_, fun t hp hd ht => ?_⟩
    · exact event_answered h hw hl (hline.trans (dropLine_busy _ i hb)) rfl
    · rw [hrun, dropLine_drops _ i hp hd]
      rfl
    · rw [hrun, dropLine_setheld _ i hp hd ht]
      rfl

/-- Settles O22: BUSY over an active walk, else a walk that the gate sees nothing of. -/
theorem flush : Obligations.Flush := by
  unfold Obligations.Flush
  intro s q rest h hc hn
  have hl := requestLengthOk_of_row (c := .flush) (by simp [requestRows]) hc hn
  refine ⟨fun hw => event_answered h (decide_eq_true hc) hl (flush_walking (s.taken rest) hw) rfl, fun hw => ?_⟩
  intro sets report
  have hbegins := flush_begins (q := q) (s.taken rest) hw
  refine (onRequest_quiet Machine.flush h hc hl ?_).trans (by rw [hbegins]; rfl)
  rw [hbegins]
  exact ((gateView_taken s rest).trans (gateView_post _ _)).trans (gateView_replied _ q .done [])

end Sys2Proof.Proofs
end

section
/-!
The choice of the way for a first band (R95, R100, R101): the replacement bits, what "wanted" and "displaceable" decide,
and what each step of the choice takes.
-/
namespace Sys2Proof.Machine

/-! ### The replacement bits -/

theorem Directory.bitsOf_eq (d : Directory) {n : Fin 64} {set : Nat} (h : n.val = set) : d.bitsOf set = d.plru[n] := by
  simp only [Directory.bitsOf, index?_eq_some h]

theorem Directory.touch_eq (d : Directory) {n : Fin 64} {i : Nat} (h : n.val = i / Config.ways) :
    d.touch i = { d with plru := upd d.plru n (Plru.touch (i % Config.ways)) } := by
  simp only [Directory.touch, index?_eq_some h]

/-! ### What is wanted and what can be displaced -/

theorem Snapshot.refers_iff {n : Snapshot} {k : PageKey} : n.refers k = true ↔ k ∈ n.keys := List.contains_iff_mem

theorem State.inPath_eq_false {s : State} {q : Seq} : s.inPath q = false ↔ ∀ r ∈ s.stk.sheets, r.seq ≠ q := by
  simp [State.inPath]

theorem Directory.usable_eq_false {d : Directory} {k : PageKey} :
    d.usable k = false ↔ d.stateOf k ≠ some .ready ∧ d.stateOf k ≠ some .locked := by
  rw [Directory.usable, decide_eq_false_iff_not, not_or]

theorem wanted_iff {s : State} {k : PageKey} : wanted s k = true ↔ Wanted s k := by
  unfold wanted Wanted
  cases hh : s.ogt.head with
  | none => simp
  | some e => simp [Snapshot.refers_iff, Directory.usable_eq_false]

theorem displaceable_iff {s : State} {l : Line} : displaceable s l = true ↔ CanDisplace s l := by
  unfold displaceable CanDisplace
  cases ho : l.owner with
  | none => simp
  | some q =>
    cases hh : s.ogt.head with
    | none => simp
    | some e => simp [State.inPath_eq_false, and_left_comm, and_comm (a := e.seq < q), and_assoc]

theorem wanted_eq_false {s : State} {k : PageKey} (h : ¬Wanted s k) : wanted s k = false :=
  Bool.eq_false_iff.2 fun hw => h (wanted_iff.1 hw)

/-- The first-ranked of the displaceable lines among some ranks first in the sense of R101. -/
theorem ranksFirst_of_firstRanked {s : State} {among : Nat × Line → Prop} {l : List (Nat × Line)} {p : Nat × Line}
    (hl : ∀ q, q ∈ l ↔ q ∈ s.pgd.lines ∧ among q ∧ CanDisplace s q.2) (hr : Cells.Rising l) (h : firstRanked l = some p) :
    RanksFirst s among p := by
  obtain ⟨hp, hfirst⟩ := firstRanked_first h
  obtain ⟨hmem, hamong, hcan⟩ := (hl p).1 hp
  exact ⟨hmem, hamong, hcan, fun q hq ha hc => hfirst hr q ((hl q).2 ⟨hq, ha, hc⟩)⟩

theorem firstRanked_isSome {l : List (Nat × Line)} {p : Nat × Line} (h : p ∈ l) : ∃ q, firstRanked l = some q :=
  Option.ne_none_iff_exists'.1 fun hn => List.ne_nil_of_mem h (firstRanked_eq_none.1 hn)

/-! ### The lowest way of a set -/

section
variable {k : PageKey} {p : Nat → Bool}

theorem find?_waysOf {i : Nat} (hset : i / Config.ways = setOf k) (hi : p i = true)
    (hlow : ∀ j < i, j / Config.ways = setOf k → p j = false) : (waysOf k).find? p = some i := by
  have hmem : i ∈ waysOf k := mem_waysOf.2 hset
  refine List.find?_range'_eq_some.2 ⟨hi, hmem, fun j hj hji => ?_⟩
  have hjset : j / Config.ways = setOf k := by
    simp only [Config.ways] at hset hj ⊢
    omega
  rw [hlow j hji hjset]
  rfl

theorem find?_waysOf_eq_none (h : ∀ i, i / Config.ways = setOf k → p i = false) : (waysOf k).find? p = none :=
  List.find?_eq_none.2 fun i hi => by simp [h i (mem_waysOf.1 hi)]

end

/-! ### The steps of the choice -/

section
variable {d : Directory} {k : PageKey}

theorem releasedWay_pointed {p : Nat} (hp : setOf k * Config.ways + (d.bitsOf (setOf k)).pointed = p)
    (h : d.stateAt p = some .released) : releasedWay d k = some p := by
  subst hp
  exact if_pos h

theorem releasedWay_lowest {p i : Nat} (hp : setOf k * Config.ways + (d.bitsOf (setOf k)).pointed = p)
    (hn : d.stateAt p ≠ some .released) (hset : i / Config.ways = setOf k) (hi : d.stateAt i = some .released)
    (hlow : ∀ j < i, j / Config.ways = setOf k → d.stateAt j ≠ some .released) : releasedWay d k = some i := by
  subst hp
  exact (if_neg hn).trans (find?_waysOf hset (decide_eq_true hi) fun j hj hs => decide_eq_false (hlow j hj hs))

theorem releasedWay_eq_none (h : ∀ i, i / Config.ways = setOf k → d.stateAt i ≠ some .released) :
    releasedWay d k = none := by
  have hpointed : (setOf k * Config.ways + (d.bitsOf (setOf k)).pointed) / Config.ways = setOf k := by
    have := (d.bitsOf (setOf k)).pointed_lt
    simp only [Config.ways] at this ⊢
    omega
  exact (if_neg (h _ hpointed)).trans (find?_waysOf_eq_none fun i hi => decide_eq_false (h i hi))

theorem mem_lowestHeld {i : Nat} : i ∈ lowestHeld d k ↔
    (i / Config.ways = setOf k ∧ d.stateAt i = some .setheld) ∧
      ∀ j, j / Config.ways = setOf k → d.stateAt j = some .setheld → d.ownerAt i ≤ d.ownerAt j := by
  simp only [lowestHeld, List.mem_filter, mem_waysOf, List.all_eq_true, decide_eq_true_eq, and_imp]

/-- A SETHELD way of least owner exists when any SETHELD way does. -/
theorem lowestHeld_ne_nil {i : Nat} (hset : i / Config.ways = setOf k) (hi : d.stateAt i = some .setheld) :
    lowestHeld d k ≠ [] := by
  have held : i ∈ (waysOf k).filter fun i => d.stateAt i = some .setheld :=
    List.mem_filter.2 ⟨mem_waysOf.2 hset, decide_eq_true hi⟩
  obtain ⟨m, hm, hleast⟩ := Finset.exists_min_image _ d.ownerAt ⟨i, List.mem_toFinset.2 held⟩
  have hm := List.mem_filter.1 (List.mem_toFinset.1 hm)
  exact List.ne_nil_of_mem (mem_lowestHeld.2 ⟨⟨mem_waysOf.1 hm.1, of_decide_eq_true hm.2⟩, fun j hj hs =>
    hleast j (List.mem_toFinset.2 (List.mem_filter.2 ⟨mem_waysOf.2 hj, decide_eq_true hs⟩))⟩)

theorem setheldWay_eq_none_iff : setheldWay d k = none ↔ lowestHeld d k = [] := by
  unfold setheldWay
  change (match lowestHeld d k with
    | [] => none | [i] => some i | i :: rest => _) = _ ↔ _
  split
  next hl => simp [hl]
  next hl => simp [hl]
  next hl => simp [hl]

end

section
variable {s : State} {k : PageKey}

theorem displacedWay_ranksFirst (hr : Cells.Rising s.pgd.lines) (hw : Wanted s k)
    (hex : ∃ p ∈ s.pgd.lines, p.1 / Config.ways = setOf k ∧ CanDisplace s p.2) :
    ∃ p, RanksFirst s (fun p => p.1 / Config.ways = setOf k) p ∧ displacedWay s k = some p.1 := by
  have hmem (q : Nat × Line) : q ∈ s.pgd.lines.filter (fun p =>
      decide (p.1 / Config.ways = setOf k) && displaceable s p.2) ↔
      q ∈ s.pgd.lines ∧ q.1 / Config.ways = setOf k ∧ CanDisplace s q.2 := by
    simp [displaceable_iff]
  obtain ⟨p, hp⟩ := hex
  obtain ⟨q, hq⟩ := firstRanked_isSome ((hmem p).2 hp)
  refine ⟨q, ranksFirst_of_firstRanked hmem (hr.filter _) hq, ?_⟩
  rw [displacedWay, if_pos (wanted_iff.2 hw), hq]
  rfl

theorem displacedWay_eq_none
    (h : ¬Wanted s k ∨ ∀ p ∈ s.pgd.lines, p.1 / Config.ways = setOf k → ¬CanDisplace s p.2) : displacedWay s k = none := by
  unfold displacedWay
  rcases h with h | h
  · rw [wanted_eq_false h]
    rfl
  · have hnone : (s.pgd.lines.filter fun p =>
        decide (p.1 / Config.ways = setOf k) && displaceable s p.2) = [] := by
      refine List.filter_eq_nil_iff.2 fun p hp => ?_
      rw [Bool.and_eq_true, decide_eq_true_eq, displaceable_iff]
      exact fun hc => h p hp hc.1 hc.2
    rw [hnone]
    exact ite_self _

/-! ### The choice -/

theorem victim_invalid {i : Nat} (hset : i / Config.ways = setOf k) (hi : s.pgd.stateAt i = none)
    (hlow : ∀ j < i, j / Config.ways = setOf k → s.pgd.stateAt j ≠ none) : victim s k = some i := by
  have hfind : (waysOf k).find? (fun i => s.pgd.stateAt i = none) = some i :=
    find?_waysOf hset (decide_eq_true hi) fun j hj hs => decide_eq_false (hlow j hj hs)
  simp only [victim, hfind]

section
variable (hfull : ∀ i, i / Config.ways = setOf k → s.pgd.stateAt i ≠ none)
include hfull

theorem no_invalid_way : (waysOf k).find? (fun i => s.pgd.stateAt i = none) = none :=
  find?_waysOf_eq_none fun i hi => decide_eq_false (hfull i hi)

theorem victim_released {i : Nat} (h : releasedWay s.pgd k = some i) : victim s k = some i := by
  simp only [victim, no_invalid_way hfull, h]

theorem victim_setheld (hr : releasedWay s.pgd k = none) {i : Nat} (h : setheldWay s.pgd k = some i) :
    victim s k = some i := by
  simp only [victim, no_invalid_way hfull, hr, h]

theorem victim_displaced (hr : releasedWay s.pgd k = none) (h : setheldWay s.pgd k = none) :
    victim s k = displacedWay s k := by
  simp only [victim, no_invalid_way hfull, hr, h]

end
end
end Sys2Proof.Machine

namespace Sys2Proof.Proofs
open Sys2Proof.Machine

/-- Settles O34: the replacement bits by their cases, then the steps of R100 in order, each after the one before it finds
no way. -/
theorem victimChoice : Obligations.VictimChoice := by
  unfold Obligations.VictimChoice
  refine ⟨fun p => ⟨?_, ?_, rfl, rfl, rfl, rfl⟩, fun d n w => ⟨d.bitsOf_eq rfl, ?_⟩, fun s k hd => ?_⟩
  · exact fun h => if_neg (by simp [h])
  · exact fun h => if_pos h
  · have hset : n.val = (4 * n.val + w.val) / Config.ways := by
      simp only [Config.ways]
      omega
    have hway : (4 * n.val + w.val) % Config.ways = w.val := by
      simp only [Config.ways]
      omega
    rw [d.touch_eq hset, hway]
  intro mine pointed
  have hp : setOf k * Config.ways + (s.pgd.bitsOf (setOf k)).pointed = pointed :=
    congrArg (· + _) (Nat.mul_comm _ _)
  refine ⟨fun i => victim_invalid, fun hfull => ⟨fun h => ?_, fun hn i hi hr hlow => ?_, fun hno => ?_⟩⟩
  · exact victim_released hfull (releasedWay_pointed hp h)
  · exact victim_released hfull (releasedWay_lowest hp hn hi hr hlow)
  have hnone := releasedWay_eq_none hno
  refine ⟨fun ⟨i, hi, hs⟩ => ?_, fun hheld => ?_⟩
  · obtain ⟨v, hv⟩ := Option.ne_none_iff_exists'.1 (mt setheldWay_eq_none_iff.1 (lowestHeld_ne_nil hi hs))
    obtain ⟨⟨hset, hst⟩, hleast⟩ := mem_lowestHeld.1 (setheldWay_mem hv)
    exact ⟨v, victim_setheld hfull hnone hv, hset, hst, hleast⟩
  · have hempty : lowestHeld s.pgd k = [] :=
      List.eq_nil_iff_forall_not_mem.2 fun i hi => by
        obtain ⟨⟨hset, hst⟩, -⟩ := mem_lowestHeld.1 hi
        exact hheld i hset hst
    rw [victim_displaced hfull hnone (setheldWay_eq_none_iff.2 hempty)]
    exact ⟨displacedWay_ranksFirst hd.rising, displacedWay_eq_none⟩

end Sys2Proof.Proofs
end

section
/-!
The placement of a band (R99, R100, R102, R104) by the branches of its functions.
-/
namespace Sys2Proof.Machine

/-! ### Discards -/

/-- What the gate hears of a discard, in the terms of its head's keys (R104). -/
theorem reportDiscard_eq (k : PageKey) (s : State) : reportDiscard k s =
    if (s.ogt.head.map fun e => decide (k ∈ e.snap.keys)) = some true then { s with ogt := s.ogt.clearHeadMark } else s := by
  unfold reportDiscard
  cases hh : s.ogt.head with
  | none => rfl
  | some e =>
    have hk : (some e).map (fun e => decide (k ∈ e.snap.keys)) = some true ↔ e.snap.refers k = true := by
      simp [Snapshot.refers_iff]
    exact if_congr hk.symm rfl rfl

/-! ### The table of R99 -/

section
variable {k : PageKey} {index : Nat} {final : Bool} {len : Nat} {s : State}

theorem place_latched (h : s.pgd.latch = some k ∧ 0 < index) : place k index final len s = (s, none) := if_pos h

theorem place_unlatched (h : ¬(s.pgd.latch = some k ∧ 0 < index)) :
    place k index final len s = placeByTable k index final len (s.onPgd fun d => { d with latch := none }) := if_neg h

section
variable (h : s.pgd.lookup k = none)
include h

theorem placeByTable_absent_later (hi : index ≠ 0) :
    placeByTable k index final len s = (discardGap k index s, none) := by
  simp only [placeByTable, h, hi, if_false]

theorem placeByTable_absent_full (hi : index = 0) (hv : victim s k = none) :
    placeByTable k index final len s = (discardFull k index s, none) := by
  simp only [placeByTable, h, hi, hv, if_true]

theorem placeByTable_absent_first (hi : index = 0) {i : Nat} (hv : victim s k = some i) :
    placeByTable k index final len s = takeBlock k i index len (fillWay k i s) := by
  simp only [placeByTable, h, hi, hv, if_true]

end

section
variable {i : Nat} {l : Line} (h : s.pgd.lookup k = some (i, l))
include h

theorem placeByTable_released_later (hl : l.state = .released) (hi : index ≠ 0) :
    placeByTable k index final len s = (discardGap k index s, none) := by
  simp only [placeByTable, h, hl, hi, if_false]

theorem placeByTable_released_first (hl : l.state = .released) (hi : index = 0) :
    placeByTable k index final len s = takeBlock k i index len (fillWay k i s) := by
  simp only [placeByTable, h, hl, hi, if_true]

theorem placeByTable_duplicate
    (hl : l.state = .ready ∨ l.state = .locked ∨ l.state = .setheld ∨ l.state = .filling ∧ index = 0) :
    placeByTable k index final len s = (discardDuplicate k index s, none) := by
  rcases hl with hl | hl | hl | ⟨hl, hi⟩
  · simp only [placeByTable, h, hl]
  · simp only [placeByTable, h, hl]
  · simp only [placeByTable, h, hl]
  · simp only [placeByTable, h, hl, hi, if_true]

theorem placeByTable_next (hl : l.state = .filling) (hi : index ≠ 0)
    (hn : index = l.chain.length ∧ ¬(index = 127 ∧ final = false)) :
    placeByTable k index final len s = takeBlock k i index len s := by
  simp only [placeByTable, h, hl]
  rw [if_neg hi, if_pos hn]

theorem placeByTable_gap (hl : l.state = .filling) (hi : index ≠ 0)
    (hn : ¬(index = l.chain.length ∧ ¬(index = 127 ∧ final = false))) :
    placeByTable k index final len s = (discardGap k index (s.onPgd (Directory.dropWay i)), none) := by
  simp only [placeByTable, h, hl]
  rw [if_neg hi, if_neg hn]

end
end

/-! ### The way that is filled -/

section
variable {k : PageKey} {i : Nat} {s : State}

theorem fillWay_free (h : Cells.find s.pgd.lines i = none) : fillWay k i s =
    watchGate s (s.onPgd fun d => ({ d with lines := Cells.put d.lines i (freshLine s k) }).touch i) := by
  simp only [fillWay, h, watched, State.onPgd, Directory.dropWay, Directory.putWay]

section
variable {l : Line} (h : Cells.find s.pgd.lines i = some l)
include h

/-- A way that is taken gives its blocks back before the page's line stands in it. -/
theorem fillWay_untagged (ht : l.setTag = none) : fillWay k i s =
    watchGate s (s.onPgd fun d => ({ d with
      lines := Cells.put (Cells.erase d.lines i) i (freshLine s k), free := d.free ++ l.chain }).touch i) := by
  simp only [fillWay, h, ht, watched, State.onPgd, Directory.dropWay, Directory.putWay]

theorem fillWay_tagged {x : SetTag} (ht : l.setTag = some x) : fillWay k i s =
    loseProtection x (watchGate s (s.onPgd fun d => ({ d with
      lines := Cells.put (Cells.erase d.lines i) i (freshLine s k), free := d.free ++ l.chain }).touch i)) := by
  simp only [fillWay, h, ht, watched, State.onPgd, Directory.dropWay, Directory.putWay]

end
end

/-! ### The loss of protection -/

theorem loseProtection_noSet {x : SetTag} {s : State} (h : s.dlu.openSet = none) : loseProtection x s = s := by
  simp only [loseProtection, h]

theorem loseProtection_other {x : SetTag} {s : State} {o : OpenSet} (h : s.dlu.openSet = some o)
    (hx : o.guarded = none ∨ x ≠ ⟨o.job, o.set⟩) : loseProtection x s = s := by
  have hn : ¬(o.guarded.isSome ∧ x = ⟨o.job, o.set⟩) := by
    rintro ⟨hg, he⟩
    rcases hx with hx | hx
    · simp [hx] at hg
    · exact hx he
  simp only [loseProtection, h]
  exact if_neg hn

/-! ### The block that is taken -/

theorem displacePool_held {s : State} {k : PageKey} {b : Nat} {free : List Nat} (h : s.pgd.free = b :: free) :
    displacePool k s = s := by
  simp [displacePool, h]

theorem displacePool_nothing {s : State} {k : PageKey} (h : ¬Wanted s k ∨ ∀ p ∈ s.pgd.lines, ¬CanDisplace s p.2) :
    displacePool k s = s := by
  unfold displacePool
  rcases h with h | h
  · rw [wanted_eq_false h, Bool.and_false]
    rfl
  · have hnone : (s.pgd.lines.filter fun p => displaceable s p.2) = [] :=
      List.filter_eq_nil_iff.2 fun p hp => mt displaceable_iff.1 (h p hp)
    rw [hnone]
    exact ite_self _

/-- The pool form of displacement drops the first-ranked of all displaceable lines (R101, R102). -/
theorem displacePool_ranksFirst {s : State} {k : PageKey} (hr : Cells.Rising s.pgd.lines) (hf : s.pgd.free = [])
    (hw : Wanted s k) (hex : ∃ p ∈ s.pgd.lines, CanDisplace s p.2) : ∃ p, RanksFirst s (fun _ => True) p ∧
      displacePool k s = watchGate s (s.onPgd (Directory.dropWay p.1)) := by
  have hmem (q : Nat × Line) : q ∈ s.pgd.lines.filter (fun p => displaceable s p.2) ↔
      q ∈ s.pgd.lines ∧ True ∧ CanDisplace s q.2 := by
    simp [displaceable_iff]
  obtain ⟨p, hp, hc⟩ := hex
  obtain ⟨q, hq⟩ := firstRanked_isSome ((hmem p).2 ⟨hp, trivial, hc⟩)
  refine ⟨q, ranksFirst_of_firstRanked hmem (hr.filter _) hq, ?_⟩
  simp only [displacePool, hf, wanted_iff.2 hw, hq]
  rfl

section
variable {k : PageKey} {i index len : Nat} {s : State}

theorem takeBlock_takes {b : Nat} {free : List Nat} {l : Line} (hf : (displacePool k s).pgd.free = b :: free)
    (hl : Cells.find (displacePool k s).pgd.lines i = some l) : takeBlock k i index len s =
      ((displacePool k s).onPgd fun d => { d with free := free, lines := Cells.put d.lines i (l.append b len) }, some b) := by
  simp only [takeBlock, hf, State.onPgd, hl]

theorem takeBlock_full (hf : (displacePool k s).pgd.free = []) : takeBlock k i index len s =
    (watched (State.onPgd (Directory.dropWay i)) (discardFull k index (displacePool k s)), none) := by
  simp only [takeBlock, hf]

/-- A block is free, so it joins the chain of the line. -/
theorem takeBlock_free {b : Nat} {free : List Nat} {l : Line} (hl : Cells.find s.pgd.lines i = some l)
    (hf : s.pgd.free = b :: free) : takeBlock k i index len s = ({ s with
      pgd := { s.pgd with
        free := free
        lines := Cells.put s.pgd.lines i { l with chain := l.chain ++ [b], bytes := l.bytes + len } } }, some b) := by
  have hd : displacePool k s = s := displacePool_held hf
  rw [takeBlock_takes (by rwa [hd]) (by rwa [hd]), hd]
  rfl

/-- No block is free and none may be displaced, so the band is discarded and its page's line goes. -/
theorem takeBlock_nothing (hf : s.pgd.free = []) (h : ¬Wanted s k ∨ ∀ p ∈ s.pgd.lines, ¬CanDisplace s p.2) :
    takeBlock k i index len s = (watched (State.onPgd (Directory.dropWay i)) (discardFull k index s), none) := by
  have hd : displacePool k s = s := displacePool_nothing h
  rw [takeBlock_full (by rwa [hd]), hd]

/-- The displaced line is another than the FILLING one, and the first of its blocks joins that one's chain. -/
theorem takeBlock_displaced {l : Line} (hd : DirectoryOk s.pgd) (hl : Cells.find s.pgd.lines i = some l)
    (hf : s.pgd.free = []) (hw : Wanted s k) (hs : l.state = .filling) (hex : ∃ p ∈ s.pgd.lines, CanDisplace s p.2) :
    ∃ p, RanksFirst s (fun _ => True) p ∧ ∀ b free, p.2.chain = b :: free →
      takeBlock k i index len s = ({ watchGate s { s with pgd := s.pgd.dropWay p.1 } with
        pgd := { s.pgd with
          free := free
          lines := Cells.put (Cells.erase s.pgd.lines p.1) i
            { l with chain := l.chain ++ [b], bytes := l.bytes + len } } }, some b) := by
  obtain ⟨p, hp, hpool⟩ := displacePool_ranksFirst hd.rising hf hw hex
  refine ⟨p, hp, fun b free hb => ?_⟩
  obtain ⟨hmem, -, ⟨hstate, -, -⟩, -⟩ := hp
  have hfind : Cells.find s.pgd.lines p.1 = some p.2 := find_of_mem hd.rising hmem
  have hother : i ≠ p.1 := by
    rintro rfl
    obtain rfl : l = p.2 := Option.some.inj (hl.symm.trans hfind)
    rw [hs] at hstate
    rcases hstate with hstate | hstate <;> cases hstate
  have hpgd : (displacePool k s).pgd = { s.pgd with lines := Cells.erase s.pgd.lines p.1, free := b :: free } := by
    rw [hpool, (watchGate_watched _ _).pgd]
    simp only [State.onPgd, Directory.dropWay_some hfind, hf, hb, List.nil_append]
  rw [takeBlock_takes (congrArg Directory.free hpgd)
    ((congrArg (fun d => Cells.find d.lines i) hpgd).trans ((find_erase_other _ hother).trans hl))]
  simp only [State.onPgd, hpgd]
  rw [hpool]
  rfl

end
end Sys2Proof.Machine

namespace Sys2Proof.Proofs
open Sys2Proof.Machine

/-- Settles O33: the table of R99 row by row, then the way that is filled, the set that loses its protection, and the block
that is free, cannot be had, or is displaced. -/
theorem placement : Obligations.Placement := by
  unfold Obligations.Placement
  intro s k index final len x c duplicate discarded fresh
  have gap (u : State) (d : Directory) (hu : u = { c with pgd := d }) :
      (discardGap k index u, (none : Option Nat)) = (discarded .gap d, none) := by
    subst hu
    exact congrArg (·, none) (reportDiscard_eq k _)
  refine ⟨fun h hi => place_latched ⟨h, hi⟩, fun hlatch => ?table, fun i => fillWay_free,
    fun i l hl => ⟨fillWay_untagged hl, fun x => fillWay_tagged hl⟩,
    fun x => ⟨loseProtection_noSet, fun o ho => ⟨loseProtection_other ho, ?_⟩⟩,
    fun i l hl => ⟨fun b free => takeBlock_free hl, fun hf hn => ?_, fun hf hw hs hex hd =>
      takeBlock_displaced hd hl hf hw hs hex⟩⟩
  case table =>
    have hx : x = placeByTable k index final len c := place_unlatched hlatch
    rw [hx]
    refine ⟨fun hk hi => ?_, fun hk hi hv => ?_, fun i hk hi hv => placeByTable_absent_first (s := c) hk hi hv,
      fun i l hk => ⟨fun hl hi => ?_, placeByTable_released_first (s := c) hk, placeByTable_duplicate (s := c) hk,
        fun hl hi hlen hlast => placeByTable_next (s := c) hk hl hi ⟨hlen, hlast⟩, fun hl hi hno => ?_⟩⟩
    · exact (placeByTable_absent_later (s := c) hk hi).trans (gap _ _ rfl)
    · exact (placeByTable_absent_full (s := c) hk hi hv).trans (congrArg (·, none) (reportDiscard_eq k _))
    · exact (placeByTable_released_later (s := c) hk hl hi).trans (gap _ _ rfl)
    · have hno : ¬(index = l.chain.length ∧ ¬(index = 127 ∧ final = false)) := by tauto
      exact (placeByTable_gap (s := c) hk hl hi hno).trans (gap _ _ rfl)
  · rintro hg rfl
    exact (loseProtection_own ho hg).trans (releaseSet_eq _ _)
  · refine (takeBlock_nothing hf hn).trans (congrArg (·, none) ?_)
    rw [discardFull, reportDiscard_eq]
    rfl

end Sys2Proof.Proofs
end

section
/-!
The flush walk of one set (R113, R114): the walk judges the ways one by one; what it takes is the list of the set's lines
that it may take, and the report, the pool and the loss of protection follow from that list.
-/
namespace Sys2Proof.Machine

/-! ### Rising tables -/

section
variable {α : Type} {m n : List (Nat × α)}

/-- A rising table is its entries. -/
theorem rising_ext (hm : Cells.Rising m) (hn : Cells.Rising n) (h : ∀ p, p ∈ m ↔ p ∈ n) : m = n := by
  have nodup {l : List (Nat × α)} (hl : Cells.Rising l) : l.Nodup :=
    List.Pairwise.imp (fun hlt he => Nat.ne_of_lt hlt (congrArg Prod.fst he)) hl
  exact List.Perm.eq_of_pairwise (fun a b _ _ hab hba => absurd hab (Nat.lt_asymm hba)) hm hn
    ((List.perm_ext_iff_of_nodup (nodup hm) (nodup hn)).2 h)

theorem find_iff_mem (hm : Cells.Rising m) {a : Nat} {v : α} : Cells.find m a = some v ↔ (a, v) ∈ m :=
  ⟨mem_of_find, find_of_mem hm⟩

end

/-! ### The lines that the walk takes -/

/-- The lines that the walk takes in some ways, in the order of the ways. -/
def Walk.taken (w : Walk) (lines : List (Nat × Line)) (ways : List Nat) : List (Nat × Line) :=
  ways.filterMap fun i => ((Cells.find lines i).filter w.takes).map (Prod.mk i)

/-- What the walk makes of a list of lines, one after the other. -/
def takeLines (ls : List (Nat × Line)) (r : Walk × State) : Walk × State :=
  ls.foldl (fun r p => walkInvalidate p.1 p.2 r.1 r.2) r

/-- The set tag that is left when the lines of a list are taken: that of the last SETHELD one. -/
def lastTag (ls : List (Nat × Line)) (t : Option SetTag) : Option SetTag :=
  ls.foldl (fun t p => if p.2.state = .setheld then p.2.setTag else t) t

theorem walkInvalidate_pgd (i : Nat) (l : Line) (w : Walk) (s : State) :
    (walkInvalidate i l w s).2.pgd = s.pgd.dropWay i := by
  unfold walkInvalidate
  dsimp only
  repeat' split
  all_goals rfl

theorem walkInvalidate_includeSets (i : Nat) (l : Line) (w : Walk) (s : State) :
    (walkInvalidate i l w s).1.includeSets = w.includeSets := by
  unfold walkInvalidate
  dsimp only
  repeat' split
  all_goals rfl

theorem Walk.takes_congr {v w : Walk} (h : v.includeSets = w.includeSets) : v.takes = w.takes := by
  funext l
  rw [Walk.takes, h]
  rfl

theorem Walk.taken_erase (w : Walk) (lines : List (Nat × Line)) {i : Nat} {ways : List Nat} (h : i ∉ ways) :
    w.taken (Cells.erase lines i) ways = w.taken lines ways :=
  List.filterMap_congr fun j hj => by rw [find_erase_other lines (ne_of_mem_of_not_mem hj h)]

/-- The walk of some ways takes the lines that stand in them when it begins. -/
theorem walkWays_eq {ways : List Nat} (hn : ways.Nodup) (w : Walk) (t : Option SetTag) (s : State) :
    walkWays ways w t s =
      ((takeLines (w.taken s.pgd.lines ways) (w, s)).1, lastTag (w.taken s.pgd.lines ways) t,
        (takeLines (w.taken s.pgd.lines ways) (w, s)).2) := by
  induction ways generalizing w t s with
  | nil => rfl
  | cons i is ih =>
    obtain ⟨hi, his⟩ := List.nodup_cons.1 hn
    rcases walkWays_cons i is w t s with ⟨l, hl, ht, he⟩ | ⟨hno, he⟩
    · have hrest : (walkInvalidate i l w s).1.taken (walkInvalidate i l w s).2.pgd.lines is =
          w.taken s.pgd.lines is := by
        rw [walkInvalidate_pgd, Directory.dropWay_lines, Walk.taken_erase _ _ hi, Walk.taken,
          Walk.takes_congr (walkInvalidate_includeSets i l w s), Walk.taken]
      have hcons : w.taken s.pgd.lines (i :: is) = (i, l) :: w.taken s.pgd.lines is :=
        List.filterMap_cons_some (by simp [hl, ht])
      rw [he, ih his, hrest, hcons]
      rfl
    · have hcons : w.taken s.pgd.lines (i :: is) = w.taken s.pgd.lines is := by
        refine List.filterMap_cons_none (Option.map_eq_none_iff.2 ?_)
        exact Option.filter_eq_none_iff.2 fun l hl => Bool.eq_false_iff.1 (hno l hl)
      rw [he, ih his, hcons]

/-- Whether a line stands in the set that is walked next, and is taken (R113). -/
def Walk.takesHere (w : Walk) (p : Nat × Line) : Bool :=
  decide (p.1 / Config.ways = w.next) && !p.2.pin &&
    decide (p.2.state = .released ∨ (p.2.state = .setheld ∧ w.includeSets = true))

theorem Walk.takesHere_iff {w : Walk} {p : Nat × Line} :
    w.takesHere p = true ↔ p.1 / Config.ways = w.next ∧ w.takes p.2 = true := by
  rw [Walk.takesHere, Bool.and_assoc, Bool.and_eq_true, decide_eq_true_eq]
  rfl

/-- The lines of a set that the walk takes stand in the order of the ways, as in the directory. -/
theorem Walk.taken_eq_filter (w : Walk) {lines : List (Nat × Line)} (hr : Cells.Rising lines) :
    w.taken lines (List.range' (w.next * Config.ways) Config.ways) =
      lines.filter w.takesHere := by
  have hmem (p : Nat × Line) : p ∈ w.taken lines (List.range' (w.next * Config.ways) Config.ways) ↔
      p.1 / Config.ways = w.next ∧ p ∈ lines ∧ w.takes p.2 = true := by
    have hway (i : Nat) : i ∈ List.range' (w.next * Config.ways) Config.ways ↔ i / Config.ways = w.next := by
      rw [List.mem_range'_1]
      simp only [Config.ways]
      omega
    unfold Walk.taken
    simp only [List.mem_filterMap, hway, Option.map_eq_some_iff, Option.filter_eq_some_iff, find_iff_mem hr]
    constructor
    · rintro ⟨i, hi, l, ⟨hl, ht⟩, rfl⟩
      exact ⟨hi, hl, ht⟩
    · rintro ⟨hi, hl, ht⟩
      exact ⟨p.1, hi, p.2, ⟨hl, ht⟩, rfl⟩
  refine rising_ext (List.pairwise_filterMap.2 ?_) (List.Pairwise.filter _ hr) fun p => ?_
  · refine List.Pairwise.imp (fun hlt p hp q hq => ?_) List.pairwise_lt_range'
    obtain ⟨_, _, rfl⟩ := Option.map_eq_some_iff.1 hp
    obtain ⟨_, _, rfl⟩ := Option.map_eq_some_iff.1 hq
    exact hlt
  · rw [hmem, List.mem_filter, Walk.takesHere_iff]
    exact and_left_comm

/-- The tag that is left is that of the last SETHELD line of the list. -/
theorem lastTag_none (ls : List (Nat × Line)) :
    lastTag ls none = ((ls.filter fun p => decide (p.2.state = .setheld)).getLast?).bind fun p => p.2.setTag := by
  induction ls using List.reverseRecOn with
  | nil => rfl
  | append_singleton ls p ih =>
    have hlast : lastTag (ls ++ [p]) none = if p.2.state = .setheld then p.2.setTag else lastTag ls none :=
      List.foldl_append
    rw [hlast, ih, List.filter_append]
    by_cases hp : p.2.state = .setheld
    · simp [hp]
    · simp [hp]

/-! ### The report -/

/-- The keys to report after the lines of a list are taken. -/
def Walk.listed (w : Walk) (ls : List (Nat × Line)) : List PageKey :=
  if w.report then w.buffer ++ ls.map fun p => p.2.key else w.buffer

/-- The report that goes out at 16 keys, and the keys that are left after it. -/
def fullReport (keys : List PageKey) : List Notice := if 16 ≤ keys.length then [.flushReport (keys.take 16)] else []
def unreported (keys : List PageKey) : List PageKey := if 16 ≤ keys.length then keys.drop 16 else keys

/-- Notices posted one after the other. -/
def postAll (ns : List Notice) (li : Link) : Link := ns.foldl (fun l n => Link.post n l) li

theorem postAll_append (ms ns : List Notice) (li : Link) : postAll (ms ++ ns) li = postAll ns (postAll ms li) :=
  List.foldl_append

theorem fullReport_short {keys : List PageKey} (h : keys.length < 16) : fullReport keys = [] := if_neg (by omega)
theorem unreported_short {keys : List PageKey} (h : keys.length < 16) : unreported keys = keys := if_neg (by omega)

theorem fullReport_append {keys : List PageKey} (h : keys.length = 16) (more : List PageKey) :
    fullReport (keys ++ more) = [.flushReport keys] := by
  rw [fullReport, if_pos (by rw [List.length_append]; omega), List.take_left' h]

theorem unreported_append {keys : List PageKey} (h : keys.length = 16) (more : List PageKey) :
    unreported (keys ++ more) = more := by
  rw [unreported, if_pos (by rw [List.length_append]; omega), List.drop_left' h]

section
variable (i : Nat) (l : Line) {w : Walk} (s : State)

theorem walkInvalidate_silent (h : w.report = false) : walkInvalidate i l w s =
    ({ w with invalidated := w.invalidated + 1 }, s.onPgd (Directory.dropWay i)) := by
  simp [walkInvalidate, h]

theorem walkInvalidate_lists (h : w.report = true) (hlen : w.buffer.length + 1 ≠ 16) : walkInvalidate i l w s =
    ({ w with invalidated := w.invalidated + 1, buffer := w.buffer ++ [l.key] }, s.onPgd (Directory.dropWay i)) := by
  simp [walkInvalidate, h, hlen, Config.reportKeys]

theorem walkInvalidate_reports (h : w.report = true) (hlen : w.buffer.length + 1 = 16) : walkInvalidate i l w s =
    ({ w with invalidated := w.invalidated + 1, buffer := [] },
      post (.flushReport (w.buffer ++ [l.key])) (s.onPgd (Directory.dropWay i))) := by
  simp [walkInvalidate, h, hlen, Config.reportKeys]

end

/-- The lines of a list, at most 16, are counted and listed, and the report goes out once at most. -/
theorem takeLines_eq (ls : List (Nat × Line)) {w : Walk} (s : State) (hw : w.buffer.length < 16) (hl : ls.length ≤ 16) :
    takeLines ls (w, s) =
      ({ w with invalidated := w.invalidated + ls.length, buffer := unreported (w.listed ls) },
        { s with
          li := postAll (fullReport (w.listed ls)) s.li
          pgd := ls.foldl (fun d p => d.dropWay p.1) s.pgd }) := by
  induction ls generalizing w s with
  | nil =>
    have hlisted : w.listed [] = w.buffer := by simp [Walk.listed]
    rw [hlisted, fullReport_short hw, unreported_short hw]
    rfl
  | cons p ls ih =>
    have hl : ls.length + 1 ≤ 16 := hl
    have hcount : w.invalidated + 1 + ls.length = w.invalidated + (p :: ls).length := by
      rw [List.length_cons]
      omega
    have hstep : takeLines (p :: ls) (w, s) = takeLines ls (walkInvalidate p.1 p.2 w s) := rfl
    rw [hstep]
    by_cases hr : w.report = true
    · have hkeys : w.listed (p :: ls) = (w.buffer ++ [p.2.key]) ++ ls.map fun p => p.2.key := by
        simp [Walk.listed, hr]
      by_cases hfull : w.buffer.length + 1 = 16
      · have hlen : (w.buffer ++ [p.2.key]).length = 16 := by simpa using hfull
        have hrest : Walk.listed { w with invalidated := w.invalidated + 1, buffer := [] } ls =
            ls.map fun p => p.2.key := by
          simp [Walk.listed, hr]
        have hshort : (ls.map fun p => p.2.key).length < 16 := by
          rw [List.length_map]
          omega
        rw [walkInvalidate_reports _ _ _ hr hfull,
          ih (w := { w with invalidated := w.invalidated + 1, buffer := [] }) _ (Nat.zero_lt_succ 15) (by omega), hrest, hkeys,
          fullReport_append hlen, unreported_append hlen, fullReport_short hshort, unreported_short hshort, hcount]
        rfl
      · have hrest : Walk.listed { w with invalidated := w.invalidated + 1, buffer := w.buffer ++ [p.2.key] } ls =
            w.listed (p :: ls) := by
          simp [Walk.listed, hr]
        have hlen : (w.buffer ++ [p.2.key]).length < 16 := by
          rw [List.length_append, List.length_singleton]
          omega
        rw [walkInvalidate_lists _ _ _ hr hfull, ih _ hlen (by omega), hrest, hcount]
        rfl
    · have hr : w.report = false := Bool.eq_false_iff.2 hr
      have hrest : Walk.listed { w with invalidated := w.invalidated + 1 } ls = w.listed (p :: ls) := by
        simp [Walk.listed, hr]
      rw [walkInvalidate_silent _ _ _ hr,
        ih (w := { w with invalidated := w.invalidated + 1 }) _ hw (by omega), hrest, hcount]
      rfl

/-! ### The pool -/

/-- The ways of some listed lines become INVALID together. -/
theorem dropWays_eq (ls : List (Nat × Line)) {d : Directory} (hr : Cells.Rising d.lines) (hls : Cells.Rising ls)
    (hmem : ∀ p ∈ ls, p ∈ d.lines) : ls.foldl (fun d p => d.dropWay p.1) d = { d with
      lines := d.lines.filter fun p => decide (p.1 ∉ ls.map Prod.fst)
      free := d.free ++ ls.flatMap fun p => p.2.chain } := by
  induction ls generalizing d with
  | nil => simp
  | cons p ls ih =>
    obtain ⟨hp, hls⟩ := List.pairwise_cons.1 hls
    have herase := erase_eq_filter hr p.1
    have hstep := Directory.dropWay_some (find_of_mem hr (hmem p List.mem_cons_self))
    have hkept : ((d.lines.filter fun q => decide (q.1 ≠ p.1)).filter fun q => decide (q.1 ∉ ls.map Prod.fst)) =
        d.lines.filter fun q => decide (q.1 ∉ (p :: ls).map Prod.fst) := by
      rw [List.filter_filter]
      refine List.filter_congr fun q _ => ?_
      rw [← Bool.decide_and, decide_eq_decide, List.map_cons, List.mem_cons, not_or, and_comm]
    rw [List.foldl_cons, ih (by rw [Directory.dropWay_lines]; exact rising_erase hr _) hls fun q hq => ?_, hstep, herase]
    · simp only [hkept, List.flatMap_cons, List.append_assoc]
    · rw [Directory.dropWay_lines, herase]
      exact List.mem_filter.2 ⟨hmem q (List.mem_cons_of_mem _ hq), decide_eq_true (Nat.ne_of_gt (hp q hq))⟩

/-- The lines that satisfy a test become INVALID together. -/
theorem dropWays_filter (f : Nat × Line → Bool) {d : Directory} (hr : Cells.Rising d.lines) :
    (d.lines.filter f).foldl (fun d p => d.dropWay p.1) d = { d with
      lines := d.lines.filter fun p => !f p
      free := d.free ++ (d.lines.filter f).flatMap fun p => p.2.chain } := by
  rw [dropWays_eq _ hr (List.Pairwise.filter _ hr) fun p hp => List.mem_of_mem_filter hp]
  congr 1
  refine List.filter_congr fun p hp => ?_
  have hiff : p.1 ∈ (d.lines.filter f).map Prod.fst ↔ f p = true := by
    refine ⟨fun hm => ?_, fun hf => List.mem_map.2 ⟨p, List.mem_filter.2 ⟨hp, hf⟩, rfl⟩⟩
    obtain ⟨⟨a, l⟩, hq, rfl⟩ := List.mem_map.1 hm
    obtain ⟨hq, hf⟩ := List.mem_filter.1 hq
    have hl : some l = some p.2 := (find_of_mem hr hq).symm.trans (find_of_mem hr hp)
    cases hl
    exact hf
  cases hf : f p <;> simp [hiff, hf]

/-! ### The set that loses its protection -/

/-- Whether the set of the record loses its protection by the tag that is left (R88). -/
def OpenSet.loses (lost : Option SetTag) (o : OpenSet) : Bool := decide (o.guarded.isSome ∧ lost = some ⟨o.job, o.set⟩)

/-- A line after the protection of the set is lost (R108). -/
def Line.afterLoss (lost : Option SetTag) (s : State) (l : Line) : Line :=
  if l.state = .setheld ∧ l.setTag = lost ∧ s.dlu.openSet.any (·.loses lost) = true then
    { l with state := .released, cls := effectiveClass s l.key, owner := none, setTag := none }
  else l

/-- The loss of the tag that is left, when one is left. -/
def loseLost (lost : Option SetTag) (s : State) : State :=
  match lost with
  | some t => loseProtection t s
  | none => s

theorem Line.afterLoss_id {lost : Option SetTag} {s : State} (h : s.dlu.openSet.any (·.loses lost) = false) (l : Line) :
    l.afterLoss lost s = l := by
  simp [Line.afterLoss, h]

/-- Nothing changes when the record's set does not lose its protection. -/
theorem loseLost_same {lost : Option SetTag} {s : State} (h : s.dlu.openSet.any (·.loses lost) = false) :
    loseLost lost s = s := by
  cases lost with
  | none => rfl
  | some t =>
    cases ho : s.dlu.openSet with
    | none => exact loseProtection_noSet ho
    | some o =>
      rw [ho, Option.any_some, OpenSet.loses, decide_eq_false_iff_not] at h
      refine loseProtection_other ho (or_iff_not_imp_left.2 fun hg ht => h ⟨Option.isSome_iff_ne_none.2 hg, ?_⟩)
      rw [ht]

theorem loseLost_eq (lost : Option SetTag) (s : State) : loseLost lost s = { s with
    dlu := { s.dlu with
      openSet := s.dlu.openSet.map fun o => if o.loses lost then { o with guarded := none } else o }
    pgd := { s.pgd with lines := s.pgd.lines.map fun p => (p.1, p.2.afterLoss lost s) } } := by
  cases h : s.dlu.openSet.any (·.loses lost) with
  | false =>
    have hset : (s.dlu.openSet.map fun o => if o.loses lost then { o with guarded := none } else o) = s.dlu.openSet := by
      cases ho : s.dlu.openSet with
      | none => rfl
      | some o =>
        rw [ho, Option.any_some] at h
        simp [h]
    rw [loseLost_same h, hset]
    simp [Line.afterLoss_id h]
  | true =>
    obtain ⟨o, ho, hlost⟩ := (Option.any_eq_true _ _).1 h
    have hline (l : Line) : l.afterLoss lost s = if l.state = .setheld ∧ l.setTag = lost then
        { l with state := .released, cls := effectiveClass s l.key, owner := none, setTag := none } else l := by
      simp [Line.afterLoss, h]
    simp only [ho, Option.map_some, hlost, if_true, hline]
    obtain ⟨hg, rfl⟩ := of_decide_eq_true hlost
    exact (loseProtection_own ho hg).trans (releaseSet_eq _ _)

/-! ### The end of the walk -/

theorem walkEnd_eq (w : Walk) (s : State) : walkEnd w s = { s with
    li := postAll ((if w.report = true ∧ w.buffer ≠ [] then [.flushReport w.buffer] else []) ++
      [.flushEnd w.invalidated]) s.li
    pgd := { s.pgd with walk := none } } := by
  have hiff : (w.report && !w.buffer.isEmpty) = true ↔ w.report = true ∧ w.buffer ≠ [] := by simp
  unfold walkEnd
  by_cases h : w.report = true ∧ w.buffer ≠ []
  · rw [if_pos (hiff.2 h), if_pos h]
    rfl
  · rw [if_neg (mt hiff.1 h), if_neg h]
    rfl

/-! ### The step of the walk -/

/-- The walk on record after the lines of a list are taken, but for the set that comes next. -/
def Walk.after (w : Walk) (ls : List (Nat × Line)) : Walk :=
  { w with invalidated := w.invalidated + ls.length, buffer := unreported (w.listed ls) }

/-- The lines that the walk takes from its next set. -/
def Walk.takenHere (w : Walk) (s : State) : List (Nat × Line) := s.pgd.lines.filter w.takesHere

/-- The set tag that is left when they are taken: that of the last SETHELD line (R113). -/
def Walk.lostHere (w : Walk) (s : State) : Option SetTag :=
  (((w.takenHere s).filter fun p => decide (p.2.state = .setheld)).getLast?).bind fun p => p.2.setTag

/-- The state when the lines of the set are taken and the set whose tag is left has lost its protection; the walk on record
is still the one before. -/
def setWalked (w : Walk) (s : State) : State :=
  { s with
    li := postAll (fullReport (w.listed (w.takenHere s))) s.li
    dlu := { s.dlu with
      openSet := s.dlu.openSet.map fun o => if o.loses (w.lostHere s) then { o with guarded := none } else o }
    pgd := { s.pgd with
      lines := (s.pgd.lines.filter fun p => !w.takesHere p).map fun p => (p.1, p.2.afterLoss (w.lostHere s) s)
      free := s.pgd.free ++ (w.takenHere s).flatMap fun p => p.2.chain } }

section
variable {w : Walk} {s : State} (hr : Cells.Rising s.pgd.lines) (hw : w.buffer.length < 16)
include hr hw

/-- The walk of one set takes the lines of the set that it may take. -/
theorem walkWays_set : walkWays (List.range' (w.next * Config.ways) Config.ways) w none s =
    (w.after (w.takenHere s), w.lostHere s, { s with
      li := postAll (fullReport (w.listed (w.takenHere s))) s.li
      pgd := { s.pgd with
        lines := s.pgd.lines.filter fun p => !w.takesHere p
        free := s.pgd.free ++ (w.takenHere s).flatMap fun p => p.2.chain } }) := by
  have hT : w.taken s.pgd.lines (List.range' (w.next * Config.ways) Config.ways) = w.takenHere s :=
    w.taken_eq_filter hr
  have hlen : (w.takenHere s).length ≤ 16 := by
    rw [← hT]
    refine (List.length_filterMap_le _ _).trans ?_
    rw [List.length_range']
    decide
  rw [walkWays_eq List.nodup_range', hT, lastTag_none, takeLines_eq _ s hw hlen, Walk.takenHere, dropWays_filter _ hr]
  rfl

theorem walkStep_next (hn : w.next ≠ 63) :
    walkStep w s = (setWalked w s).onPgd fun d =>
      { d with walk := some { w.after (w.takenHere s) with next := w.next + 1 } } := by
  have hne : w.next + 1 ≠ Config.sets := fun h => hn (Nat.succ.inj h)
  simp only [walkStep, walkWays_set hr hw]
  exact (if_neg hne).trans (congrArg (State.onPgd _) (loseLost_eq _ _))

theorem walkStep_last (hn : w.next = 63) :
    walkStep w s = walkEnd { w.after (w.takenHere s) with next := w.next + 1 } (setWalked w s) := by
  have heq : w.next + 1 = Config.sets := congrArg Nat.succ hn
  simp only [walkStep, walkWays_set hr hw]
  exact (if_pos heq).trans (congrArg (walkEnd _) (loseLost_eq _ _))

end
end Sys2Proof.Machine

namespace Sys2Proof.Proofs
open Sys2Proof.Machine

/-- Settles O23: the lines taken in the ways of the set are those the test selects, and the set they name loses its
protection before the walk goes on or, after set 63, ends. -/
theorem flushWalkStep : Obligations.FlushWalkStep := by
  unfold Obligations.FlushWalkStep
  refine ⟨fun s h => event_unchanged Machine.flushWalkStep (by simp only [Machine.flushWalkStep, h]),
    fun s w hp hr h hok => ?_⟩
  intro takes taken lost loses after count keys left notices
  have hw : w.buffer.length < 16 := (hok w h).2
  have hstep : Machine.flushWalkStep s = walkStep w s := by simp only [Machine.flushWalkStep, h]
  refine (event_awake Machine.flushWalkStep hp).trans (congrArg (fun t => Host.Outcome.next (watchGate s t)) ?_)
  rw [hstep]
  by_cases hn : w.next = 63
  · rw [walkStep_last hr hw hn, walkEnd_eq]
    simp only [notices, hn, if_true, List.foldl_append (l := if 16 ≤ keys.length then _ else _)]
    rfl
  · rw [walkStep_next hr hw hn]
    simp only [notices, hn, if_false, List.append_nil]
    rfl

end Sys2Proof.Proofs
end

section
/-!
The Memory Port Arbiter (R125, R126): a request and a boundary, by who waits and who continues.
-/
namespace Sys2Proof.Machine

section
variable {c : Capture} {h : Holder}

theorem request_free (hc : c.port = none) : Capture.request h c = { c with
    port := some h, lastHolder := some h, run := if c.lastHolder = some h then c.run else 0 } := by
  simp only [Capture.request, hc]

theorem request_busy (hc : c.port.isSome) : Capture.request h c = c.setWaiting h true := by
  obtain ⟨x, hx⟩ := Option.isSome_iff_exists.1 hc
  simp only [Capture.request, hx]

section
variable {limit : Nat} (hw : c.waiting h.other = false)
include hw

theorem boundary_alone_continues : Capture.boundary limit h true c = { c with
    port := some h, lastHolder := some h, run := 0 } := by
  simp only [Capture.boundary, hw, Bool.false_eq_true, if_false, if_true]

theorem boundary_alone_ends : Capture.boundary limit h false c = { c with port := none } := by
  simp only [Capture.boundary, hw, Bool.false_eq_true, if_false]

end

section
variable {limit : Nat} (hw : c.waiting h.other = true)
include hw

/-- A holder below its hold limit keeps the port (R126). -/
theorem boundary_contended_keeps (hr : c.run + 1 < limit) : Capture.boundary limit h true c = { c with
    port := some h, lastHolder := some h, run := c.run + 1 } := by
  simp only [Capture.boundary, hw, hr, decide_true, Bool.and_self, if_true]

/-- At its hold limit the holder yields the port and becomes the requester that waits (R126). -/
theorem boundary_contended_yields (hr : limit ≤ c.run + 1) : Capture.boundary limit h true c =
    { (c.setWaiting h.other false).setWaiting h true with
      port := some h.other, lastHolder := some h.other, run := 0 } := by
  have hyield : Capture.boundary limit h true c = (c.handOver h).setWaiting h true := by
    simp only [Capture.boundary, hw, Nat.not_lt.2 hr, decide_false, Bool.and_false, Bool.false_eq_true, if_false, if_true]
  rw [hyield]
  cases h <;> rfl

theorem boundary_contended_ends : Capture.boundary limit h false c =
    { c.setWaiting h.other false with port := some h.other, lastHolder := some h.other, run := 0 } := by
  simp only [Capture.boundary, hw, Bool.false_and, Bool.false_eq_true, if_false, if_true, Capture.handOver]

end

/-- A boundary is the port's alone: the call that waits stays. -/
theorem boundary_pendingCall (limit : Nat) (continues : Bool) :
    (Capture.boundary limit h continues c).pendingCall = c.pendingCall := by
  unfold Capture.boundary Capture.handOver
  cases h <;> repeat' split
  all_goals rfl

end

end Sys2Proof.Machine

namespace Sys2Proof.Proofs
open Sys2Proof.Machine

/-- Settles O39: a request of a free and of a held port, and the five boundaries. -/
theorem portArbiter : Obligations.PortArbiter := by
  unfold Obligations.PortArbiter
  exact fun _ _ _ => ⟨request_free, request_busy, boundary_alone_continues, boundary_alone_ends,
    boundary_contended_keeps, boundary_contended_yields, boundary_contended_ends⟩

end Sys2Proof.Proofs
end

section
/-!
The capture writer (R32, R117 to R119): a band taken from the FIFO, a band presented to the Page Directory, and the end of a
write transfer.
-/
namespace Sys2Proof.Machine

/-! ## The gate does not see the capture engine (R135) -/

theorem gateView_withCre (s : State) (c : Capture) : gateView s = gateView { s with cre := c } := rfl

theorem watchGate_withCre (s : State) (c : Capture) : watchGate s { s with cre := c } = { s with cre := c } :=
  watchGate_same (gateView_withCre s c)

/-- The judgement depends on the state before a change only through the gate's view of it. -/
theorem watchGate_congr {s t : State} (h : gateView s = gateView t) (u : State) : watchGate s u = watchGate t u := by
  simp only [watchGate, h]

/-! ## A band is presented (R32, R118) -/

theorem place_cre (k : PageKey) (index : Nat) (final : Bool) (len : Nat) (s : State) :
    (place k index final len s).1.cre = s.cre := (closed_cre s.cre).place k index final len rfl

theorem place_pds (k : PageKey) (index : Nat) (final : Bool) (len : Nat) (s : State) :
    (place k index final len s).1.pds = s.pds := (closed_pds s.pds).place k index final len rfl

section
variable {b : Band} {s u : State}

theorem present_setup (hm : s.pds.mode = .setup) : present b s = (post (.pageDiscard b.key b.index .mode) s, false) :=
  if_pos hm

section
variable (hm : s.pds.mode = .running)
include hm

theorem present_discarded (hx : place b.key b.index b.final b.data.length s = (u, none)) : present b s = (u, false) := by
  simp only [present, hm, reduceCtorEq, if_false, hx]

theorem present_placed {n : Nat} (hx : place b.key b.index b.final b.data.length s = (u, some n)) :
    present b s = ({ u with cre := { s.cre with write := some (b, n) } }, true) := by
  have hcre : u.cre = s.cre := by simpa only [hx] using place_cre b.key b.index b.final b.data.length s
  simp only [present, hm, reduceCtorEq, if_false, hx, State.onCre, hcre]

end
end

/-! ## BAND (R117) -/

section
variable {b : Band} {s u : State}

theorem band_waits (h : s.cre.take ≠ none) : band s = s := by
  unfold band
  split
  · rfl
  · exact if_neg fun hf => h hf.2

theorem band_taken {f : Frame} {rest : List Frame} (hf : s.li.fifo = f :: rest) (hk : f.kind = kindBand)
    (ht : s.cre.take = none) : band s = takeBand (bandBody f.body) (s.taken rest) := by
  simp only [band, hf]
  exact if_pos ⟨hk, ht⟩

theorem takeBand_held (hm : s.pds.mode = .running) (hw : s.cre.write.isSome = true) :
    takeBand b s = { s with cre := { s.cre with take := some b } } := if_pos ⟨hm, hw⟩

theorem takeBand_setup (hm : s.pds.mode = .setup) : takeBand b s = post (.pageDiscard b.key b.index .mode) s := by
  simp only [takeBand, hm, reduceCtorEq, false_and, if_false, present_setup hm, Bool.false_eq_true]

section
variable (hm : s.pds.mode = .running) (hw : s.cre.write = none)
include hm hw

theorem takeBand_discarded (hx : place b.key b.index b.final b.data.length s = (u, none)) : takeBand b s = u := by
  simp only [takeBand, hw, Option.isSome_none, Bool.false_eq_true, and_false, if_false, present_discarded hm hx]

/-- A placed band asks for the port (R125). -/
theorem takeBand_placed {n : Nat} (hx : place b.key b.index b.final b.data.length s = (u, some n)) :
    takeBand b s = { u with cre :=
      if s.cre.port = none then { s.cre with
        write := some (b, n), port := some .capture, lastHolder := some .capture
        run := if s.cre.lastHolder = some .capture then s.cre.run else 0 }
      else { s.cre with write := some (b, n), captureWaiting := true } } := by
  have hrequest : takeBand b s =
      { u with cre := Capture.request .capture { s.cre with write := some (b, n) } } := by
    simp only [takeBand, hw, Option.isSome_none, Bool.false_eq_true, and_false, if_false, present_placed hm hx, if_true,
      request, State.onCre]
  rw [hrequest]
  split
  next hp => rw [request_free (c := { s.cre with write := some (b, n) }) hp]
  next hp => rw [request_busy (c := { s.cre with write := some (b, n) }) (Option.isSome_iff_ne_none.2 hp)]; rfl

end
end

/-! ## The end of a write transfer (R103, R118, R119) -/

section
variable {k : PageKey} {final : Bool} {s : State}

theorem writeCompleted_frame (k : PageKey) (final : Bool) (s : State) :
    writeCompleted k final s = { s with pgd := (writeCompleted k final s).pgd } := by
  unfold writeCompleted
  repeat' split
  all_goals rfl

theorem writeCompleted_absent (h : s.pgd.lookup k = none) : writeCompleted k final s = s := by
  simp only [writeCompleted, h]

theorem writeCompleted_kept {i : Nat} {l : Line} (h : s.pgd.lookup k = some (i, l))
    (hl : ¬(l.state = .filling ∧ final = true)) : writeCompleted k final s = s := by
  simp only [writeCompleted, h]
  exact if_neg hl

/-- The final band of a FILLING line makes it READY (R103). -/
theorem writeCompleted_ready {i : Nat} {l : Line} (h : s.pgd.lookup k = some (i, l))
    (hl : l.state = .filling ∧ final = true) :
    writeCompleted k final s = { s with
      pgd := s.pgd.putWay i { l with state := .ready, cls := effectiveClass s k } } := by
  have henter : l.enter .ready (effectiveClass s k) = { l with state := .ready, cls := effectiveClass s k } :=
    if_neg (by simp [hl.1])
  simp only [writeCompleted, h]
  rw [if_pos hl, henter]
  rfl

end

section
variable {b w : Band} {n : Nat} {s u : State}

/-- The Page Directory does not see the bytes that are stored. -/
theorem writeCompleted_storeBand (k : PageKey) (final : Bool) (b : Band) (n : Nat) (s : State) :
    (writeCompleted k final (storeBand b n s)).pgd = (writeCompleted k final s).pgd := by
  have hlook : (storeBand b n s).pgd.lookup k = s.pgd.lookup k := rfl
  cases h : s.pgd.lookup k with
  | none => rw [writeCompleted_absent h, writeCompleted_absent (hlook.trans h)]; rfl
  | some p =>
    obtain ⟨i, l⟩ := p
    by_cases hl : l.state = .filling ∧ final = true
    · rw [writeCompleted_ready h hl, writeCompleted_ready (hlook.trans h) hl]; rfl
    · rw [writeCompleted_kept h hl, writeCompleted_kept (hlook.trans h) hl]; rfl

theorem completeWrite_eq (b : Band) (n : Nat) (s : State) : completeWrite b n s = { s with
    pgd := (writeCompleted b.key b.final s).pgd
    cre := { s.cre with
      dram := Memory.writeRun s.cre.dram (blockBase n) b.data
      lengths := Cells.put s.cre.lengths n b.data.length
      write := none } } := by
  unfold completeWrite
  rw [writeCompleted_frame, writeCompleted_storeBand]
  rfl

theorem nextWrite_noBand (h : s.cre.take = none) :
    nextWrite s = { s with cre := Capture.boundary s.pds.timing.captureHold .capture false s.cre } := by
  simp only [nextWrite, presentWaiting, h]
  rfl

section
variable {v : State} (h : s.cre.take = some w) (hv : { s with cre := { s.cre with take := none } } = v)
include h hv

theorem nextWrite_presents : nextWrite s = boundary .capture (present w v).2 (present w v).1 := by
  subst hv
  simp only [nextWrite, presentWaiting, h]
  rfl

theorem nextWrite_setup (hm : v.pds.mode = .setup) : nextWrite s = { post (.pageDiscard w.key w.index .mode) v with
    cre := Capture.boundary v.pds.timing.captureHold .capture false v.cre } := by
  rw [nextWrite_presents h hv, present_setup hm]
  rfl

section
variable (hm : v.pds.mode = .running)
include hm

/-- A waiting band that is discarded lets the port go (R126). -/
theorem nextWrite_discarded (hx : place w.key w.index w.final w.data.length v = (u, none)) :
    nextWrite s = { u with cre := Capture.boundary v.pds.timing.captureHold .capture false v.cre } := by
  have hpds : u.pds = v.pds := by simpa only [hx] using place_pds w.key w.index w.final w.data.length v
  have hcre : u.cre = v.cre := by simpa only [hx] using place_cre w.key w.index w.final w.data.length v
  rw [nextWrite_presents h hv, present_discarded hm hx, ← hpds, ← hcre]
  rfl

/-- A waiting band that is placed goes on with the port (R119, R126). -/
theorem nextWrite_placed {m : Nat} (hx : place w.key w.index w.final w.data.length v = (u, some m)) :
    nextWrite s = { u with
      cre := Capture.boundary v.pds.timing.captureHold .capture true { v.cre with write := some (w, m) } } := by
  have hpds : u.pds = v.pds := by simpa only [hx] using place_pds w.key w.index w.final w.data.length v
  rw [nextWrite_presents h hv, present_placed hm hx, ← hpds]
  rfl

end
end

theorem exec_writeTransferEnd_notDue (h : s.cre.port ≠ some .capture ∨ s.cre.write = none) :
    exec .writeTransferEnd s = .next s := by
  have he : writeTransferEnd s = s := by
    unfold writeTransferEnd
    split
    next hp hw => simp [hp, hw] at h
    next => rfl
  have hexec : exec .writeTransferEnd s = if s.porst then .next s else .next (writeTransferEnd s) := rfl
  rw [hexec, he, ite_self]

/-- The two changes of the command, each of them judged (log 6). -/
theorem exec_writeTransferEnd (hp : s.porst = false) (hport : s.cre.port = some .capture) (hw : s.cre.write = some (b, n)) :
    exec .writeTransferEnd s = .next (watched nextWrite (watched (completeWrite b n) s)) := by
  have he : writeTransferEnd s = watched nextWrite (watched (completeWrite b n) s) := by
    simp only [writeTransferEnd, hport, hw]
  rw [← he]
  exact if_neg (by simp [hp])

end

end Sys2Proof.Machine

namespace Sys2Proof.Proofs
open Sys2Proof.Machine

/-- Settles O32: a band that waits in the FIFO, is discarded MODE, is held, or is presented to the Page Directory. -/
theorem bandTaken : Obligations.BandTaken := by
  unfold Obligations.BandTaken
  intro s f rest hp hf hk b
  refine ⟨fun ht => event_unchanged band (band_waits ht), fun ht => ?_⟩
  have hrun : exec .band s = .next (watchGate s (takeBand b (s.taken rest))) := by
    rw [← band_taken hf hk ht]
    exact event_awake band hp
  refine ⟨fun hm => ?_, fun hm hw => ?_, fun hm hw => ⟨fun t hx => ?_, fun t n hx => ?_⟩⟩
  · rw [hrun, takeBand_setup (s := s.taken rest) hm,
      watchGate_same ((gateView_taken s rest).trans (gateView_post _ _))]
  · rw [hrun, takeBand_held (s := s.taken rest) hm hw,
      watchGate_same ((gateView_taken s rest).trans (gateView_withCre _ _))]
    rfl
  · rw [hrun, takeBand_discarded (s := s.taken rest) hm hw hx]
  · rw [hrun, takeBand_placed (s := s.taken rest) hm hw hx]
    rfl

/-- Settles O35: the write completes and is judged; then the waiting band, if any, is presented and the port is judged. -/
theorem writeTransferEnd : Obligations.WriteTransferEnd := by
  unfold Obligations.WriteTransferEnd
  refine ⟨fun s => exec_writeTransferEnd_notDue, fun s b n hp hport hwrite => ?_⟩
  intro c d t
  have hd : (writeCompleted b.key b.final s).pgd = d := by
    cases hl : s.pgd.lookup b.key with
    | none => rw [writeCompleted_absent hl]; simp only [d, hl]
    | some p =>
      obtain ⟨i, l⟩ := p
      simp only [d, hl]
      split
      next hf => rw [writeCompleted_ready hl hf]
      next hf => rw [writeCompleted_kept hl hf]
  have hdone : watched (completeWrite b n) s = t := by
    rw [watched, completeWrite_eq, hd]
    rfl
  have hrun : exec .writeTransferEnd s = .next (watchGate t (nextWrite t)) := by
    rw [exec_writeTransferEnd hp hport hwrite, hdone]
    rfl
  have hk := watchGate_watched s { s with pgd := d, cre := c }
  have hcre : t.cre = c := hk.cre
  have hpds : t.pds = s.pds := hk.pds
  refine ⟨fun ht => ?_, fun w ht v hv => ?_, fun hm => ⟨fun a ha => read_writeRun_other b.data ha, fun i x hx =>
    read_writeRun_same hm _ _ i x hx⟩⟩
  · rw [hrun, nextWrite_noBand (s := t) (by rw [hcre]; exact ht), watchGate_withCre, hcre, hpds]
  · have htake : t.cre.take = some w := by rw [hcre]; exact ht
    have hpresents : { t with cre := { t.cre with take := none } } = v := by rw [hv, hcre]
    have hview : gateView t = gateView v := hv ▸ gateView_withCre t _
    have hvpds : v.pds = s.pds := by rw [hv]; exact hpds
    refine ⟨fun hm => ?_, fun hm u m hx => ?_⟩
    · have hquiet := hview.trans (gateView_post (.pageDiscard w.key w.index .mode) v)
      rw [hrun, nextWrite_setup htake hpresents (hvpds ▸ hm), hvpds]
      exact congrArg Host.Outcome.next (watchGate_same (hquiet.trans (gateView_withCre _ _)))
    · rw [← hvpds] at hm
      cases m with
      | none => rw [hrun, nextWrite_discarded htake hpresents hm hx, watchGate_congr hview, hvpds]
      | some m => rw [hrun, nextWrite_placed htake hpresents hm hx, watchGate_congr hview, hvpds]

end Sys2Proof.Proofs
end

section
/-!
The replay reader (R122, R124): the end of a read transfer, and a band given when the BANDOUT place empties.
-/
namespace Sys2Proof.Machine

section
variable {s : State} {c : CallReq} {chain : List Nat} {n : Nat}

theorem readTransferEnd_notDue (h : s.cre.port ≠ some .replay) : readTransferEnd s = s := if_neg h

section
variable (hp : s.cre.port = some .replay)
include hp

theorem readTransferEnd_streaming (hr : s.cre.reader = .streaming c chain n) :
    readTransferEnd s = readEndStreaming c chain n s := by
  simp only [readTransferEnd, hp, if_true, hr]

/-- The reader of an abandoned replay becomes IDLE, and the call that waits starts (R120, R124). -/
theorem readTransferEnd_draining (hr : s.cre.reader = .draining) :
    readTransferEnd s = startPending { s with
      cre := { Capture.boundary s.pds.timing.replayHold .replay false s.cre with reader := .idle } } := by
  simp only [readTransferEnd, hp, if_true, hr]
  rfl

end

theorem readEndStreaming_given (h : s.li.bandoutPlace = none) :
    readEndStreaming c chain n s = { s with
      li := Link.placeBandout ⟨c.tag, c.side, n, (readBand chain n s.cre).final, (readBand chain n s.cre).data⟩ s.li
      cre := Capture.boundary s.pds.timing.replayHold .replay (decide (n + 1 < chain.length))
        { s.cre with reader := .streaming c chain (n + 1), buffer := none } } :=
  if_pos (Option.isNone_iff_eq_none.2 h)

/-- While the BANDOUT place is full the band stays in the buffer and the port goes (R122). -/
theorem readEndStreaming_buffered (h : s.li.bandoutPlace ≠ none) :
    readEndStreaming c chain n s = { s with
      cre := Capture.boundary s.pds.timing.replayHold .replay false
        { s.cre with reader := .streaming c chain (n + 1), buffer := some (readBand chain n s.cre) } } :=
  if_neg (mt Option.isNone_iff_eq_none.1 h)

theorem bandoutGiven_gives {b : ReadBand} (hr : s.cre.reader = .streaming c chain n) (hb : s.cre.buffer = some b)
    (hp : s.li.bandoutPlace = none) : bandoutGiven s = { s with
      li := Link.placeBandout ⟨c.tag, c.side, b.index, b.final, b.data⟩ s.li
      cre := if n < chain.length then Capture.request .replay { s.cre with buffer := none }
        else { s.cre with buffer := none } } := by
  have hgives : bandoutGiven s =
      if n < chain.length then request .replay (giveBand c b s) else giveBand c b s := by
    simp only [bandoutGiven, hr, hb, hp]
  rw [hgives]
  split <;> rfl

theorem bandoutGiven_waits (h : s.cre.buffer = none ∨ s.li.bandoutPlace ≠ none) : bandoutGiven s = s := by
  unfold bandoutGiven
  split
  next hb hp => simp [hb, hp] at h
  next => rfl

end

end Sys2Proof.Machine

namespace Sys2Proof.Proofs
open Sys2Proof.Machine

/-- Settles O37: a read that ends in an empty or a full BANDOUT place, a drained one, and a buffered band given later. -/
theorem readTransferEnd : Obligations.ReadTransferEnd := by
  unfold Obligations.ReadTransferEnd
  intro s hp
  have hrun : exec .readTransferEnd s = .next (watchGate s (Machine.readTransferEnd s)) :=
    event_awake Machine.readTransferEnd hp
  refine ⟨fun hport => event_unchanged Machine.readTransferEnd (readTransferEnd_notDue hport), fun c chain n hr => ?_,
    fun hr hport => ?_, fun h => event_unchanged bandoutGiven (bandoutGiven_waits h)⟩
  · intro block band read
    refine ⟨fun hport hplace => ?_, fun hport hplace => ?_, fun b hb hplace => ?_⟩
    · rw [hrun, readTransferEnd_streaming hport hr, readEndStreaming_given hplace]
      rfl
    · rw [hrun, readTransferEnd_streaming hport hr, readEndStreaming_buffered hplace, watchGate_withCre]
      rfl
    · rw [← bandoutGiven_gives hr hb hplace]
      exact event_awake bandoutGiven hp
  · intro t
    have hdrained : Machine.readTransferEnd s = startPending t := readTransferEnd_draining hport hr
    have hcall : t.cre.pendingCall = s.cre.pendingCall := boundary_pendingCall _ _
    refine ⟨fun hq => ?_, fun q hq => ?_⟩
    · rw [hrun, hdrained, startPending_none (hcall.trans hq)]
      exact congrArg Host.Outcome.next (watchGate_withCre s _)
    · rw [hrun, hdrained, startPending_some (hcall.trans hq)]

end Sys2Proof.Proofs
end

section
/-!
An ORDER (R130 to R133): the items of R132 one by one, its refusals in their order, and what an accepted order changes.
-/
namespace Sys2Proof.Machine

/-! ### The lowest index -/

section
variable {n : Nat} {p : Fin n → Bool}

theorem find?_finRange {i : Fin n} (hi : p i = true) (hb : ∀ k < i, p k = false) : (List.finRange n).find? p = some i := by
  refine List.find?_eq_some_iff_getElem.2 ⟨hi, i.val, by simp, by simp, fun j hj => ?_⟩
  simpa using hb ⟨j, hj.trans i.isLt⟩ hj

theorem find?_finRange_none (h : ∀ i, p i = false) : (List.finRange n).find? p = none :=
  List.find?_eq_none.2 fun i _ => by simp [h i]

end

/-! ### The items of R132 -/

theorem isCompile_iff {s : State} {b : Bin} : isCompile s b = true ↔ s.pds.bins[b.val] = ⟨true, .compile⟩ := by
  unfold isCompile
  cases s.pds.bins[b.val]
  simp

theorem Snapshot.any_refers {α : Type} {snap : α → Snapshot} {l : List α} {k : PageKey} :
    l.any (fun x => (snap x).refers k) = true ↔ ∃ x ∈ l, k ∈ (snap x).keys := by
  simp only [List.any_eq_true, Snapshot.refers_iff]

theorem referenced_iff {s : State} {k : PageKey} : referenced s k = true ↔ KeyInUse s k := by
  unfold referenced KeyInUse
  simp only [Bool.or_eq_true, Snapshot.any_refers, decide_eq_true_eq, List.mem_append, or_and_right, exists_or, or_assoc]
  cases s.dlu.openSet with
  | none => simp
  | some o => cases ho : o.guarded <;> simp [ho, Snapshot.refers_iff]

theorem orderItem_iff {s : State} {o : OrderBody} : ∀ n : Fin 8, orderItem s o (n.val + 1) = true ↔ OrderHolds s o n
  | 0 => Iff.rfl
  | 1 => decide_eq_true_iff
  | 2 => by
    by_cases hb : o.back = .none <;> simp [orderItem, OrderHolds, State.route, hb]
  | 3 => by
    by_cases hb : o.back = .implied <;> simp [orderItem, OrderHolds, Config.pageMax, hb]
  | 4 => by
    change (!s.pds.routes[o.route].duplex || decide _) = true ↔ (_ → _)
    rw [Bool.or_eq_true, Bool.not_eq_true', decide_eq_true_iff, or_iff_not_imp_left, Bool.not_eq_false]
    exact Iff.rfl
  | 5 => by
    change (o.setPresent == isCompile s s.pds.routes[o.route].bin) = true ↔ (o.setPresent = true ↔ _)
    rw [← isCompile_iff, beq_iff_eq, Bool.eq_iff_iff]
  | 6 => by
    change (!isCompile s s.pds.routes[o.route].bin || decide _) = true ↔ (_ → _)
    rw [← isCompile_iff]
    simp [or_iff_not_imp_left]
  | 7 => by
    simp [orderItem, OrderHolds, OrderBody.frontKey, ← referenced_iff]

/-- The items by number, from 1 on. -/
theorem failingItem_eq (s : State) (o : OrderBody) :
    failingItem s o = ((List.finRange 8).find? fun n => !orderItem s o (n.val + 1)).map fun n => n.val + 1 := by
  have hitems : [1, 2, 3, 4, 5, 6, 7, 8] = (List.finRange 8).map fun n => n.val + 1 := by decide
  rw [failingItem, hitems, List.find?_map]
  rfl

section
variable {s : State} {o : OrderBody}

theorem failingItem_first {n : Fin 8} (hn : ¬OrderHolds s o n) (hb : ∀ m < n, OrderHolds s o m) :
    failingItem s o = some (n.val + 1) := by
  rw [failingItem_eq, find?_finRange (i := n), Option.map_some]
  · simpa using mt (orderItem_iff n).1 hn
  · exact fun m hm => by simpa using (orderItem_iff m).2 (hb m hm)

theorem failingItem_none (h : ∀ n, OrderHolds s o n) : failingItem s o = none := by
  rw [failingItem_eq, find?_finRange_none, Option.map_none]
  exact fun n => by simpa using (orderItem_iff n).2 (h n)

/-! ### The refusals of R131, in their order -/

theorem orderRefusal_setup (hm : s.pds.mode = .setup) : orderRefusal s o = some (.mode, none) := if_pos hm

section
variable (hm : s.pds.mode = .running)
include hm

theorem orderRefusal_job (hj : s.ogt.jobs[o.job].state ≠ .opened ∨ s.ogt.jobs[o.job].id ≠ o.jobId) :
    orderRefusal s o = some (.job, none) := (if_neg (by simp [hm])).trans (if_pos hj)

variable (hj : s.ogt.jobs[o.job].state = .opened) (hid : s.ogt.jobs[o.job].id = o.jobId)
include hj hid

theorem orderRefusal_invalid {n : Nat} (hn : failingItem s o = some n) : orderRefusal s o = some (.invalid, some n) := by
  refine (if_neg (by simp [hm])).trans ((if_neg (not_or.2 ⟨not_not.2 hj, not_not.2 hid⟩)).trans ?_)
  rw [hn]

theorem orderRefusal_sound (hn : failingItem s o = none) : orderRefusal s o =
    if 64 ≤ s.ogt.orq.length ∨ 4294967295 ≤ s.ogt.seqCounter then some (.full, none) else none := by
  refine (if_neg (by simp [hm])).trans ((if_neg (not_or.2 ⟨not_not.2 hj, not_not.2 hid⟩)).trans ?_)
  rw [hn]
  rfl

theorem orderRefusal_full (hn : failingItem s o = none) (hf : 64 ≤ s.ogt.orq.length ∨ 4294967295 ≤ s.ogt.seqCounter) :
    orderRefusal s o = some (.full, none) := (orderRefusal_sound hm hj hid hn).trans (if_pos hf)

theorem orderRefusal_none (hn : failingItem s o = none) (hl : s.ogt.orq.length < 64) (hq : s.ogt.seqCounter < 4294967295) :
    orderRefusal s o = none :=
  (orderRefusal_sound hm hj hid hn).trans (if_neg (not_or.2 ⟨Nat.not_le.2 hl, Nat.not_le.2 hq⟩))

end

theorem judgeOrder_refused {reason : OrderRefusal} {item : Option Nat} (h : orderRefusal s o = some (reason, item)) :
    judgeOrder o s = post (.orderRefused reason o.jobId ⟨o.job, o.front⟩ item) s := by
  simp only [judgeOrder, h]
  rfl

theorem judgeOrder_accepted (h : orderRefusal s o = none) : judgeOrder o s = acceptOrder o s := by
  simp only [judgeOrder, h]

end

/-- The ORDER at the FIFO head is judged once it has left, and the gate watches. -/
theorem exec_order {s : State} {f : Frame} {rest : List Frame} (hp : s.porst = false) (hf : s.li.fifo = f :: rest)
    (hk : f.kind = kindOrder) : exec .order s = .next (watchGate s (judgeOrder (orderBody f.body) (s.taken rest))) := by
  have ht : order s = judgeOrder (orderBody f.body) (s.taken rest) := by
    simp only [order, hf, hk, if_true]
    rfl
  rw [← ht]
  exact event_awake order hp

/-! ### The page keys of an accepted order (R96) -/

section
variable {q : Seq} {k : PageKey} {s : State} {i : Nat} {l : Line}

theorem claimLine_absent (h : s.pgd.lookup k = none) : claimLine q k s = s := by simp only [claimLine, h]

section
variable (h : s.pgd.lookup k = some (i, l))
include h

theorem claimLine_unowned (hl : l.state = .filling ∨ l.state = .ready) (ho : l.owner = none) :
    claimLine q k s = { s with pgd := s.pgd.putWay i { l with owner := some q } } := by
  rcases hl with hl | hl
  · simp only [claimLine, h, hl, ho, if_true]
    rfl
  · simp only [claimLine, h, hl, ho, if_true]
    rfl

theorem claimLine_released (hl : l.state = .released) : claimLine q k s = { s with
    pgd := s.pgd.putWay i { l with state := .locked, cls := effectiveClass s k, owner := some q } } := by
  simp only [claimLine, h, hl, l.enter_of_ne (st := .locked) (by simp [hl])]
  rfl

theorem claimLine_kept (hl : l.state = .locked ∨ l.state = .setheld ∨ l.owner.isSome ∧ l.state ≠ .released) :
    claimLine q k s = s := by
  rcases hl with hl | hl | ⟨ho, hl⟩
  · simp only [claimLine, h, hl]
  · simp only [claimLine, h, hl]
  · have howned : l.owner ≠ none := Option.isSome_iff_ne_none.1 ho
    cases hs : l.state with
    | released => exact absurd hs hl
    | locked | setheld => simp only [claimLine, h, hs]
    | filling | ready => simp only [claimLine, h, hs, howned, if_false]

end

theorem claimLine_frame (q : Seq) (k : PageKey) (s : State) : claimLine q k s = { s with pgd := (claimLine q k s).pgd } := by
  unfold claimLine
  repeat' split
  all_goals rfl

/-- The class of a page is made of the pair's class and its job's (R98). -/
theorem effectiveClass_congr {t : State} (hp : s.pgd.pairClass = t.pgd.pairClass) (hc : s.ogt.jobClass = t.ogt.jobClass) :
    effectiveClass s = effectiveClass t := by
  funext k
  simp only [effectiveClass, hp, hc]

/-- A claim sees of the state the directory and the classes of the jobs alone. -/
theorem claimLine_pgd_congr {t : State} (hp : s.pgd = t.pgd) (hc : s.ogt.jobClass = t.ogt.jobClass) :
    (claimLine q k s).pgd = (claimLine q k t).pgd := by
  simp only [claimLine, effectiveClass_congr (congrArg _ hp) hc, hp]
  repeat' split
  all_goals simp only [onPgd_pgd, hp]

end

theorem claimLines_frame (q : Seq) (ks : List PageKey) (s : State) :
    ks.foldl (fun s k => claimLine q k s) s = { s with pgd := (ks.foldl (fun s k => claimLine q k s) s).pgd } := by
  induction ks generalizing s with
  | nil => rfl
  | cons k ks ih =>
    rw [List.foldl_cons, ih, claimLine_frame]

theorem claimLines_pgd_congr (q : Seq) (ks : List PageKey) {s t : State} (hp : s.pgd = t.pgd)
    (hc : s.ogt.jobClass = t.ogt.jobClass) :
    (ks.foldl (fun s k => claimLine q k s) s).pgd = (ks.foldl (fun s k => claimLine q k s) t).pgd := by
  induction ks generalizing s t with
  | nil => exact hp
  | cons k ks ih =>
    have hgate (u : State) : (claimLine q k u).ogt = u.ogt := by rw [claimLine_frame]
    exact ih (claimLine_pgd_congr hp hc) (by rw [hgate, hgate, hc])

/-! ### Acceptance (R130, R133) -/

/-- The class of a job stays when its entry keeps class and state. -/
theorem jobClass_upd {g : Gate} {j : JobSlot} {f : Job → Job} (hs : (f g.jobs[j]).state = .free ↔ g.jobs[j].state = .free)
    (hc : (f g.jobs[j]).cls = g.jobs[j].cls) : { g with jobs := upd g.jobs j f }.jobClass = g.jobClass := by
  funext i
  unfold Gate.jobClass
  by_cases hi : j = i
  · subst hi
    rw [upd_same]
    simp only [hs, hc]
  · rw [upd_other _ _ hi]

/-- `s` with the order in the queue under the next sequence, and counted (R133). -/
def State.withOrder (o : OrderBody) (s : State) : State :=
  { s with ogt := { s.ogt with
    seqCounter := s.ogt.seqCounter + 1
    orq := s.ogt.orq ++ [⟨s.ogt.seqCounter, o.job, o.snapshot s, false, none, 0⟩]
    jobs := upd s.ogt.jobs o.job fun b => { b with orq := b.orq + 1 } } }

/-- The claims of an accepted order see nothing of the queue it has joined. -/
theorem claimLines_withOrder (o : OrderBody) (s : State) (ks : List PageKey) :
    ks.foldl (fun u k => claimLine s.ogt.seqCounter k u) (s.withOrder o) = { s.withOrder o with
      pgd := (ks.foldl (fun u k => claimLine s.ogt.seqCounter k u) s).pgd } := by
  have hclass : (s.withOrder o).ogt.jobClass = s.ogt.jobClass := jobClass_upd (g := s.ogt) Iff.rfl rfl
  rw [claimLines_frame, claimLines_pgd_congr _ _ (s := s.withOrder o) (t := s) rfl hclass]

theorem acceptOrder_eq (o : OrderBody) (s : State) : acceptOrder o s = { s with
    pgd := ((o.snapshot s).keys.foldl (fun u k => claimLine s.ogt.seqCounter k u) s).pgd
    ogt := { (s.withOrder o).ogt with
      compileSet := if o.compiles s then (if o.setEnd then none else some ⟨o.job, o.set⟩) else s.ogt.compileSet } } := by
  have hclaims := claimLines_withOrder o s (o.snapshot s).keys
  by_cases hc : o.compiles s = true
  · rw [if_pos hc]
    exact (if_pos hc).trans (congrArg (State.onOgt _) hclaims)
  · rw [if_neg hc]
    exact (if_neg hc).trans hclaims

theorem OrderBody.snapshot_eq (o : OrderBody) (s : State) : o.snapshot s =
    ⟨o.route, o.media, ⟨o.job, o.front⟩, if s.pds.routes[o.route].duplex then o.backKey else none,
      if s.pds.bins[s.pds.routes[o.route].bin.val] = ⟨true, .compile⟩ then some (o.set, o.setEnd) else none⟩ := by
  simp only [OrderBody.snapshot, OrderBody.compiles, isCompile_iff]
  rfl

end Sys2Proof.Machine

namespace Sys2Proof.Proofs
open Sys2Proof.Machine

/-- Settles O28: the checks of R131 in their order; the gate sees nothing of a refusal. -/
theorem orderRefused : Obligations.OrderRefused := by
  unfold Obligations.OrderRefused
  intro s f rest hp hf hk o job refused
  have hrefused {reason : OrderRefusal} {item : Option Nat} (h : orderRefusal (s.taken rest) o = some (reason, item)) :
      refused reason item := by
    have hv := (gateView_taken s rest).trans (gateView_post (.orderRefused reason o.jobId ⟨o.job, o.front⟩ item) _)
    exact (exec_order hp hf hk).trans (by rw [judgeOrder_refused h, watchGate_same hv])
  refine ⟨fun hm => hrefused (orderRefusal_setup hm), fun hm => ⟨fun hj => hrefused (orderRefusal_job hm hj),
    fun hj hid => ⟨fun n hn hb => ?_, fun h hfull => ?_⟩⟩⟩
  · exact hrefused (orderRefusal_invalid hm hj hid (failingItem_first (s := s.taken rest) hn hb))
  · exact hrefused (orderRefusal_full hm hj hid (failingItem_none (s := s.taken rest) h) hfull)

/-- Settles O29: an order that no check refuses is accepted; the claim of a page by the line it finds. -/
theorem orderAccepted : Obligations.OrderAccepted := by
  unfold Obligations.OrderAccepted
  refine ⟨fun s f rest hp hf hk => ?accepted, fun q k s => ⟨claimLine_absent, fun i l h => ⟨?_, ?_, ?_⟩⟩⟩
  case accepted =>
    intro o rt compile q snap hm hj hid h hl hq
    have hnone := orderRefusal_none (s := s.taken rest) (o := o) hm hj hid (failingItem_none h) hl hq
    have hsnap : o.snapshot (s.taken rest) = snap := o.snapshot_eq (s.taken rest)
    rw [exec_order hp hf hk, judgeOrder_accepted hnone, acceptOrder_eq, State.withOrder, hsnap]
    simp only [OrderBody.compiles, isCompile_iff]
    rw [claimLines_pgd_congr _ _ (s := s.taken rest) (t := s) rfl rfl]
    rfl
  · exact claimLine_unowned h
  · exact claimLine_released h
  · exact claimLine_kept h

end Sys2Proof.Proofs
end

section
/-!
OPEN JOB and CLOSE JOB (R143 to R145): the entry that holds an id, the entries that can be opened, and JOB DONE.
-/
namespace Sys2Proof.Machine

/-! ### Entries of the Job Context Table (R143, R145) -/

/-- Some entry that is not FREE holds the id. -/
abbrev Gate.HoldsId (g : Gate) (id : Nat) : Prop := ∃ j : JobSlot, g.jobs[j].state ≠ .free ∧ g.jobs[j].id = id

section
variable {g : Gate} {id : Nat}

theorem jobSlotOf_none (h : ∀ j : JobSlot, g.jobs[j].state = .free ∨ g.jobs[j].id ≠ id) : jobSlotOf g id = none :=
  find?_finRange_none fun j => decide_eq_false fun ⟨hs, hid⟩ => (h j).elim hs (· hid)

theorem jobSlotOf_first {j : JobSlot} (hs : g.jobs[j].state ≠ .free) (hid : g.jobs[j].id = id)
    (hb : ∀ k < j, g.jobs[k].state = .free ∨ g.jobs[k].id ≠ id) : jobSlotOf g id = some j :=
  find?_finRange (decide_eq_true ⟨hs, hid⟩) fun k hk => decide_eq_false fun ⟨hs, hid⟩ => (hb k hk).elim hs (· hid)

theorem jobSlotOf_unheld (h : ¬g.HoldsId id) : jobSlotOf g id = none :=
  jobSlotOf_none fun j => or_iff_not_imp_left.2 fun hs hid => h ⟨j, hs, hid⟩

theorem jobSlotOf_isSome (h : g.HoldsId id) : (jobSlotOf g id).isSome := by
  obtain ⟨j, hs, hid⟩ := h
  exact List.find?_isSome.2 ⟨j, List.mem_finRange j, decide_eq_true ⟨hs, hid⟩⟩

theorem mem_freeJobs {j : JobSlot} : j ∈ freeJobs g ↔ g.jobs[j].state = .free := by
  simp [freeJobs]

end

theorem presentLines_eq_zero {d : Directory} {j : JobSlot} : presentLines d j = 0 ↔ ∀ p ∈ d.lines, p.2.key.job ≠ j := by
  simp [presentLines]

theorem checkDone_waits {j : JobSlot} {s : State} (h : (s.ogt.jobs[j]).done = false) : checkDone j s = s :=
  if_neg (Bool.eq_false_iff.1 h)

/-- An entry that is done becomes FREE with a JOB DONE, and keeps its id, class and totals (R145; log 11). -/
theorem checkDone_done {j : JobSlot} {s : State} (h : (s.ogt.jobs[j]).done = true) : checkDone j s =
    post (.jobDone s.ogt.jobs[j].id j (decide (s.ogt.jobs[j].state = .cancelling)) s.ogt.jobs[j].delivered
      s.ogt.jobs[j].purged s.ogt.jobs[j].removed) (onJob j (fun b => { b with state := .free }) s) := if_pos h

/-! ### OPEN JOB (R144) -/

section
variable {b : List Byte} {i : Nat}

theorem classAt_eq_none (h : 3 ≤ byteAt b i) : classAt b i = none := by
  rw [classAt, if_neg (by omega), if_neg (by omega), if_neg (by omega)]

theorem classAt_eq_some {c : Retention} (h : c.level = byteAt b i) : classAt b i = some c := by
  cases c <;> simp [classAt, ← h, Retention.level]

theorem exists_class (h : byteAt b i < 3) : ∃ c, classAt b i = some c := by
  unfold classAt
  repeat' split
  · exact ⟨_, rfl⟩
  · exact ⟨_, rfl⟩
  · exact ⟨_, rfl⟩
  · omega

end

section
variable {q : Request} {s : State}

theorem openJob_refused (h : 3 ≤ byteAt q.body 5 ∨ s.ogt.HoldsId (halfAt q.body 3)) :
    openJob q s = s.replied q .refusedInvalid [] := by
  unfold openJob
  cases hc : classAt q.body 5 with
  | none => rfl
  | some c =>
    have hheld := h.resolve_left fun hb => by simp [classAt_eq_none hb] at hc
    exact if_pos (jobSlotOf_isSome hheld)

section
variable {c : Retention} (hc : classAt q.body 5 = some c) (hh : ¬s.ogt.HoldsId (halfAt q.body 3))
include hc hh

theorem openJob_full (hf : ∀ j : JobSlot, s.ogt.jobs[j].state ≠ .free) : openJob q s = s.replied q .refusedFull [] := by
  have hnone : freeJobs s.ogt = [] := List.eq_nil_iff_forall_not_mem.2 fun j hj => hf j (mem_freeJobs.1 hj)
  simp only [openJob, hc, jobSlotOf_unheld hh, hnone]
  rfl

/-- Every FREE entry still has lines: each is listed with their number. -/
theorem openJob_busy (hf : ∃ j : JobSlot, s.ogt.jobs[j].state = .free)
    (hl : ∀ j : JobSlot, s.ogt.jobs[j].state = .free → ∃ p ∈ s.pgd.lines, p.2.key.job = j) :
    openJob q s = s.replied q .refusedBusy
      (listed (fun j : JobSlot => num1 j ++ bytes2 (presentLines s.pgd j)) (freeJobs s.ogt)) := by
  obtain ⟨j, hj⟩ := hf
  have hsome : (freeJobs s.ogt).isEmpty = false := List.isEmpty_eq_false_iff_exists_mem.2 ⟨j, mem_freeJobs.2 hj⟩
  have hbusy : (freeJobs s.ogt).find? (fun j => decide (presentLines s.pgd j = 0)) = none := by
    refine List.find?_eq_none.2 fun k hk => ?_
    obtain ⟨p, hp, hkey⟩ := hl k (mem_freeJobs.1 hk)
    simpa using fun hz => presentLines_eq_zero.1 hz p hp hkey
  simp only [openJob, hc, jobSlotOf_unheld hh, hsome, hbusy]
  rfl

/-- The lowest FREE entry without lines becomes OPEN. -/
theorem openJob_opens {j : JobSlot} (hj : s.ogt.jobs[j].state = .free) (hl : ∀ p ∈ s.pgd.lines, p.2.key.job ≠ j)
    (hb : ∀ k < j, s.ogt.jobs[k].state ≠ .free ∨ ∃ p ∈ s.pgd.lines, p.2.key.job = k) :
    openJob q s = (onJob j (fun _ => openedJob (halfAt q.body 3) c) s).replied q .done (num1 j) := by
  have hsome : (freeJobs s.ogt).isEmpty = false := List.isEmpty_eq_false_iff_exists_mem.2 ⟨j, mem_freeJobs.2 hj⟩
  have hfirst : (freeJobs s.ogt).find? (fun j => decide (presentLines s.pgd j = 0)) = some j := by
    rw [freeJobs, List.find?_filter]
    have heither (k : JobSlot) (hk : k < j) : s.ogt.jobs[k].state ≠ .free ∨ presentLines s.pgd k ≠ 0 :=
      (hb k hk).imp_right fun ⟨p, hp, hkey⟩ hz => presentLines_eq_zero.1 hz p hp hkey
    refine find?_finRange ?_ fun k hk => ?_
    · simpa [presentLines_eq_zero.2 hl] using hj
    · simpa [or_iff_not_imp_left] using heither k hk
  simp only [openJob, hc, jobSlotOf_unheld hh, hsome, hfirst]
  rfl

end

/-! ### CLOSE JOB (R145) -/

theorem closeJob_absent (h : ¬s.ogt.HoldsId (halfAt q.body 3)) : closeJob q s = s.replied q .refusedInvalid [] := by
  simp only [closeJob, jobSlotOf_unheld h]
  rfl

section
variable {j : JobSlot} (h : jobSlotOf s.ogt (halfAt q.body 3) = some j)
include h

theorem closeJob_refused (ho : s.ogt.jobs[j].state ≠ .opened) : closeJob q s = s.replied q .refusedState [] := by
  simp only [closeJob, h]
  exact if_neg ho

theorem closeJob_opened (ho : s.ogt.jobs[j].state = .opened) :
    closeJob q s = checkDone j ((onJob j (fun b => { b with state := .closing }) s).replied q .done []) := by
  simp only [closeJob, h]
  exact if_pos ho

omit h in
theorem closing_entry : ((onJob j (fun b => { b with state := .closing }) s).replied q .done []).ogt.jobs[j] =
    { s.ogt.jobs[j] with state := .closing } := upd_same _ _ _

/-- The job keeps entries, sheets or a set: it is CLOSING. -/
theorem closeJob_waits (ho : s.ogt.jobs[j].state = .opened)
    (hc : ¬(s.ogt.jobs[j].orq = 0 ∧ s.ogt.jobs[j].ril = 0 ∧ s.ogt.jobs[j].stt = 0 ∧ s.ogt.jobs[j].set = 0)) :
    closeJob q s = (onJob j (fun b => { b with state := .closing }) s).replied q .done [] := by
  rw [closeJob_opened h ho]
  refine checkDone_waits ?_
  rw [closing_entry]
  exact decide_eq_false fun ⟨_, hcounts⟩ => hc hcounts

/-- Nothing of the job is left: it is done at once. -/
theorem closeJob_done (ho : s.ogt.jobs[j].state = .opened)
    (hc : s.ogt.jobs[j].orq = 0 ∧ s.ogt.jobs[j].ril = 0 ∧ s.ogt.jobs[j].stt = 0 ∧ s.ogt.jobs[j].set = 0) :
    closeJob q s = post (.jobDone s.ogt.jobs[j].id j false s.ogt.jobs[j].delivered s.ogt.jobs[j].purged
      s.ogt.jobs[j].removed) ((onJob j (fun b => { b with state := .free }) s).replied q .done []) := by
  rw [closeJob_opened h ho, checkDone_done (by rw [closing_entry]; exact decide_eq_true ⟨.inl rfl, hc⟩), closing_entry]
  simp only [onJob, State.onOgt, State.replied, upd_upd]
  rfl

end

end

/-- The gate sees nothing of the Job Context Table. -/
theorem gateView_onJob (j : JobSlot) (f : Job → Job) (s : State) : gateView s = gateView (onJob j f s) := rfl

end Sys2Proof.Machine

namespace Sys2Proof.Proofs
open Sys2Proof.Machine

/-- Settles O24: OPEN JOB by its class, its id and the FREE entries; CLOSE JOB by the entry that holds the id. -/
theorem openAndCloseJob : Obligations.OpenAndCloseJob := by
  unfold Obligations.OpenAndCloseJob
  intro s q rest h held
  refine ⟨fun hc hn => ?opens, fun hc hn => ?closes⟩
  case opens =>
    have hl := requestLengthOk_of_row (c := .openJob) (by simp [requestRows]) hc hn
    have hw := decide_eq_true hc
    intro id
    refine ⟨fun hr => ?_, fun hb hi hf => ?_, fun hb hi hf hlines => ?_, fun j c hb hi hj hlines hlow => ?_⟩
    · exact event_answered h hw hl (openJob_refused hr) rfl
    · obtain ⟨c, hclass⟩ := exists_class hb
      exact event_answered h hw hl (openJob_full (s := s.taken rest) hclass hi hf) rfl
    · obtain ⟨c, hclass⟩ := exists_class hb
      exact event_answered h hw hl (openJob_busy (s := s.taken rest) hclass hi hf hlines) rfl
    · exact event_answered h hw hl (openJob_opens (s := s.taken rest) (classAt_eq_some hb) hi hj hlines hlow)
        (gateView_onJob j _ s)
  case closes =>
    have hl := requestLengthOk_of_row (c := .closeJob) (by simp [requestRows]) hc hn
    have hw := decide_eq_true hc
    intro id
    refine ⟨fun hi => event_answered h hw hl (closeJob_absent hi) rfl, fun j hs hid hlow => ?_⟩
    have hslot : jobSlotOf (s.taken rest).ogt (halfAt q.body 3) = some j := jobSlotOf_first hs hid hlow
    intro b
    refine ⟨fun ho => ?_, fun ho hcounts => ?_, fun ho hcounts => ?_⟩
    · exact event_answered h hw hl (closeJob_refused hslot ho) rfl
    · exact event_answered h hw hl (closeJob_waits hslot ho hcounts) (gateView_onJob j _ s)
    · have hdone := closeJob_done hslot ho hcounts
      refine (onRequest_quiet closeJob h hc hl ?_).trans (congrArg Host.Outcome.next hdone)
      rw [hdone]
      exact (gateView_onJob j _ s).trans ((gateView_answered _ q .done [] rest).trans (gateView_post _ _))

end Sys2Proof.Proofs
end

section
/-!
The watch over the gate head (R135, R140, R141): what the gate sees, and the judgement of its head: the tray test, then the
missing pages.
-/
namespace Sys2Proof.Machine

/-! ### What the gate sees (R135) -/

/-- What is read off the entries of two tables is the same when it is so entry by entry. -/
theorem map_toList_eq_iff {α β : Type} {n : Nat} {v w : Vector α n} {g : α → β} :
    v.toList.map g = w.toList.map g ↔ ∀ i : Fin n, g v[i] = g w[i] := by
  rw [← Vector.toList_map, ← Vector.toList_map, Vector.toList_inj, Vector.ext_iff]
  simp only [Vector.getElem_map]
  exact ⟨fun h i => h i.val i.isLt, fun h i hi => h ⟨i, hi⟩⟩

theorem isNone_eq_iff {α : Type} {x y : Option α} : x.isNone = y.isNone ↔ (x = none ↔ y = none) := by
  cases x <;> cases y <;> simp

theorem gateView_eq (s : State) : gateView s =
    ⟨s.ogt.head.map (·.seq), s.stk.sheets.map (·.slot), s.ogt.interlock, s.ogt.trays.toList.map fun f => (f.empty, f.held),
      s.dlu.bins.toList.map (·.full), s.rcc.interlock.isSome, s.rcc.jam.isSome, s.stk.path, s.li.feedPlace.isNone,
      (s.ogt.head.map fun e => e.snap.keys.map s.pgd.stateOf).getD []⟩ := by
  unfold gateView
  cases s.ogt.head <;> rfl

theorem gateView_eq_iff {s t : State} : gateView s = gateView t ↔
    (s.ogt.head.map (·.seq) = t.ogt.head.map (·.seq) ∧ s.stk.sheets.map (·.slot) = t.stk.sheets.map (·.slot) ∧
      s.ogt.interlock = t.ogt.interlock) ∧
    (∀ n : Tray, s.ogt.trays[n].empty = t.ogt.trays[n].empty ∧ s.ogt.trays[n].held = t.ogt.trays[n].held) ∧
    (∀ b : Bin, s.dlu.bins[b].full = t.dlu.bins[b].full) ∧
    ((s.rcc.interlock = none ↔ t.rcc.interlock = none) ∧ (s.rcc.jam = none ↔ t.rcc.jam = none)) ∧
    (s.stk.path = t.stk.path ∧ (s.li.feedPlace = none ↔ t.li.feedPlace = none)) ∧
    ((s.ogt.head.map fun e => e.snap.keys.map s.pgd.stateOf).getD [] =
      (t.ogt.head.map fun e => e.snap.keys.map t.pgd.stateOf).getD []) := by
  simp only [gateView_eq, GateView.mk.injEq, map_toList_eq_iff, Prod.mk.injEq, Option.isSome_eq_isSome, isNone_eq_iff,
    and_assoc]

/-! ### A judgement (R140, R141) -/

section
variable {before after : State} (hv : gateView before ≠ gateView after)
include hv

theorem watchGate_setup (hm : after.pds.mode = .setup) : watchGate before after = after.onOgt Gate.dropMarks :=
  (if_neg hv).trans (if_neg (by simp [hm]))

theorem watchGate_running (hm : after.pds.mode = .running) :
    watchGate before after = judgeHead (after.onOgt Gate.dropMarks) := (if_neg hv).trans (if_pos hm)

end

theorem raiseTrayEmpty_ogt (t : Tray) (s : State) : (raiseTrayEmpty t s).ogt = s.ogt := by
  unfold raiseTrayEmpty
  split <;> rfl

section
variable {s : State}

theorem judgeHead_none (h : s.ogt.head = none) : judgeHead s = s := by
  have ht : trayTest s = s := by simp only [trayTest, h]
  rw [judgeHead, ht]
  simp only [resendTest, h]

/-- The pages of an entry that are missing (R140). -/
def Entry.missingPages (s : State) (e : Entry) : List PageKey := e.snap.keys.filter (missing s)

variable {e : Entry} (h : s.ogt.head = some e)
include h

theorem trayTest_reports (he : s.ogt.trays[s.pds.routes[e.snap.route].tray].empty = true)
    (hr : s.ogt.trays[s.pds.routes[e.snap.route].tray].supplyReported = false) :
    trayTest s = { raiseTrayEmpty s.pds.routes[e.snap.route].tray s with
      ogt := { s.ogt with trays := upd s.ogt.trays s.pds.routes[e.snap.route].tray fun f =>
        { f with supplyReported := true } } } := by
  simp only [trayTest, h, State.route, he, hr]
  simp only [State.onOgt, raiseTrayEmpty_ogt]
  rfl

theorem trayTest_quiet (hq : ¬(s.ogt.trays[s.pds.routes[e.snap.route].tray].empty = true ∧
    s.ogt.trays[s.pds.routes[e.snap.route].tray].supplyReported = false)) : trayTest s = s := by
  simp only [trayTest, h]
  refine if_neg fun ht => hq ?_
  rwa [Bool.and_eq_true, Bool.not_eq_true'] at ht

/-- The tray test leaves the entries as they are. -/
theorem trayTest_ogt : ∃ trays, (trayTest s).ogt = { s.ogt with trays := trays } := by
  by_cases ht : s.ogt.trays[s.pds.routes[e.snap.route].tray].empty = true ∧
      s.ogt.trays[s.pds.routes[e.snap.route].tray].supplyReported = false
  · exact ⟨_, by rw [trayTest_reports h ht.1 ht.2]⟩
  · exact ⟨_, by rw [trayTest_quiet h ht]⟩

theorem resendTest_quiet (hq : e.missingPages s = [] ∨ e.resend = true) : resendTest s = s := by
  simp only [resendTest, h]
  refine if_pos ?_
  rcases hq with hq | hq
  · rw [Entry.missingPages] at hq
    simp [hq]
  · simp [hq]

theorem resendTest_asks (hg : e.missingPages s ≠ []) (hr : e.resend = false) :
    resendTest s = (post (.resendRequest e.seq s.ogt.jobs[e.job].id e.job (!s.ogt.ril.isEmpty) (e.missingPages s)) s).onOgt
      Gate.setHeadMark := by
  simp only [resendTest, h]
  refine if_neg ?_
  rw [Entry.missingPages] at hg
  simp [hr, hg]

theorem trayTest_head : (trayTest s).ogt.head = some e := by
  obtain ⟨trays, ht⟩ := trayTest_ogt h
  rw [ht]
  exact h

omit h in
theorem trayTest_missingPages : e.missingPages (trayTest s) = e.missingPages s := by
  have hmissing : missing (trayTest s) = missing s := by
    funext k
    rw [missing, missing, (trayTest_watched s).pgd]
  rw [Entry.missingPages, Entry.missingPages, hmissing]

theorem judgeHead_quiet (hq : e.missingPages s = [] ∨ e.resend = true) : judgeHead s = trayTest s :=
  resendTest_quiet (trayTest_head h) (by rwa [trayTest_missingPages])

theorem judgeHead_asks (hg : e.missingPages s ≠ []) (hr : e.resend = false) : judgeHead s =
    (post (.resendRequest e.seq s.ogt.jobs[e.job].id e.job (!s.ogt.ril.isEmpty) (e.missingPages s)) (trayTest s)).onOgt
      Gate.setHeadMark := by
  obtain ⟨trays, ht⟩ := trayTest_ogt h
  refine (resendTest_asks (trayTest_head h) (by rwa [trayTest_missingPages]) hr).trans ?_
  rw [trayTest_missingPages, ht]

end

/-! ### The gate head and its mark (R135, R140) -/

section
variable {g : Gate} {e : Entry}

theorem head_of_ril_nil (hr : g.ril = []) (h : g.head = some e) : g.orq = e :: g.orq.tail := by
  rw [Gate.head, hr] at h
  exact List.eq_cons_of_mem_head? h

theorem head_of_ril (hr : g.ril ≠ []) (h : g.head = some e) : g.ril = e :: g.ril.tail := by
  cases hl : g.ril with
  | nil => exact absurd hl hr
  | cons x xs =>
    rw [Gate.head, hl, Option.some.injEq] at h
    rw [h, List.tail_cons]

theorem setHeadMark_orq (hr : g.ril = []) (h : g.head = some e) :
    g.setHeadMark = { g with orq := { e with resend := true } :: g.orq.tail } := by
  have ho := head_of_ril_nil hr h
  unfold Gate.setHeadMark
  rw [hr, ho]
  rfl

theorem setHeadMark_ril (hr : g.ril ≠ []) (h : g.head = some e) :
    g.setHeadMark = { g with ril := { e with resend := true } :: g.ril.tail } := by
  have hl := head_of_ril hr h
  unfold Gate.setHeadMark
  rw [hl]
  rfl

end

end Sys2Proof.Machine

namespace Sys2Proof.Proofs
open Sys2Proof.Machine

/-- Settles O31: what the gate sees, field by field; the watch; and the judgement, the tray test before the missing pages. -/
theorem gateWatch : Obligations.GateWatch := by
  unfold Obligations.GateWatch
  refine ⟨fun s t => gateView_eq_iff, fun s t => watchGate_same, fun s t hv => ⟨watchGate_setup hv, watchGate_running hv⟩,
    fun s => judgeHead_none, fun s e h hm => ?_⟩
  intro n tested gone
  have htest : trayTest s = tested := by
    by_cases ht : s.ogt.trays[n].empty = true ∧ s.ogt.trays[n].supplyReported = false
    · have hraise := raiseSupply_trayEmpty n hm ht.1
      simp only [tested, if_pos ht, hraise]
      exact trayTest_reports h ht.1 ht.2
    · simp only [tested, if_neg ht]
      exact trayTest_quiet h ht
  refine ⟨fun hq => (judgeHead_quiet h hq).trans htest, fun hg hr u hu => ?_⟩
  have hasks : judgeHead s = u.onOgt Gate.setHeadMark := by
    rw [judgeHead_asks h hg hr, htest, hu]
    rfl
  obtain ⟨trays, ht⟩ := trayTest_ogt h
  have hgate : u.ogt = { s.ogt with trays := trays } := by
    rw [← ht, htest, hu]
    rfl
  have hhead : u.ogt.head = some e := by rw [hgate]; exact h
  refine ⟨fun hl => ?_, fun hl => ?_⟩
  · have hmark := setHeadMark_orq (g := u.ogt) (by rw [hgate]; exact hl) hhead
    rw [hasks, State.onOgt, hmark, hgate]
  · have hmark := setHeadMark_ril (g := u.ogt) (by rw [hgate]; exact hl) hhead
    rw [hasks, State.onOgt, hmark, hgate]

end Sys2Proof.Proofs
end

section
/-!
The admission of the gate head (R136, R137) and its withdrawal (R138).
-/
namespace Sys2Proof.Machine

/-! ### An admission withdrawn (R138) -/

section
variable {s : State}

theorem withdrawAdmission_none (h : s.li.feedPlace = none) : withdrawAdmission s = s := by
  simp only [withdrawAdmission, h]

section
variable {f : Feed} (h : s.li.feedPlace = some f)
include h

/-- The record of the FEED has ended: the FEED goes alone (log 35). -/
theorem withdrawAdmission_ended (hr : s.sheet? f.tag = none) : withdrawAdmission s = { s with
    li := { s.li with feedPlace := none }, ogt := { s.ogt with interlock := none } } := by
  have hgone : (s.onLi fun l => { l with feedPlace := none }).sheet? f.tag = none := hr
  simp only [withdrawAdmission, h, hgone]
  rfl

variable {r : Sheet} (hr : s.sheet? f.tag = some r)
include hr

theorem withdrawAdmission_returns : withdrawAdmission s =
    (returnEntry r (onJob r.job (fun b => { b with stt := b.stt - 1 })
      (dropSheet f.tag (s.onLi fun l => { l with feedPlace := none })))).onOgt fun g => { g with interlock := none } := by
  have hopen : (s.onLi fun l => { l with feedPlace := none }).sheet? f.tag = some r := hr
  simp only [withdrawAdmission, h, hopen]

theorem withdrawAdmission_queued (hq : r.reissued = false) : withdrawAdmission s = { s with
    li := { s.li with feedPlace := none }
    stk := { s.stk with sheets := s.stk.sheets.filter fun x => decide (x.tag ≠ f.tag) }
    ogt := { s.ogt with
      orq := ⟨r.seq, r.job, r.snap, false, none, r.retries⟩ :: s.ogt.orq
      jobs := upd s.ogt.jobs r.job fun b => { b with stt := b.stt - 1, orq := b.orq + 1 }
      interlock := none } } := by
  rw [withdrawAdmission_returns h hr]
  simp only [returnEntry, hq, onJob, State.onOgt, upd_upd]
  rfl

theorem withdrawAdmission_reissued (hq : r.reissued = true) : withdrawAdmission s = { s with
    li := { s.li with feedPlace := none }
    stk := { s.stk with sheets := s.stk.sheets.filter fun x => decide (x.tag ≠ f.tag) }
    ogt := { s.ogt with
      ril := insertEntry ⟨r.seq, r.job, r.snap, false, s.ogt.admitOrigin, r.retries⟩ s.ogt.ril
      jobs := upd s.ogt.jobs r.job fun b => { b with stt := b.stt - 1, ril := b.ril + 1 }
      interlock := none } } := by
  rw [withdrawAdmission_returns h hr]
  simp only [returnEntry, hq, reissue, onJob, State.onOgt, upd_upd]
  rfl

end

/-! ### The conditions of R136 -/

theorem TrayFlags.state_eq_ready {f : TrayFlags} : f.state = .ready ↔ f.held = false ∧ f.empty = false := by
  cases hh : f.held <;> cases he : f.empty <;> simp [TrayFlags.state, hh, he]

theorem holdsPath_eq_false {r : Recovery} : r.holdsPath = false ↔ r.interlock = none ∧ r.jam = none := by
  simp [Recovery.holdsPath]

/-- The eight conditions. -/
def Admissible (s : State) (e : Entry) : Prop :=
  (s.pds.mode = .running ∧ s.stk.path = .moving) ∧ (s.rcc.interlock = none ∧ s.rcc.jam = none) ∧
  s.stk.sheets.length < 24 ∧ s.ogt.interlock = none ∧ s.li.feedPlace = none ∧
  (s.ogt.trays[s.pds.routes[e.snap.route].tray].held = false ∧
    s.ogt.trays[s.pds.routes[e.snap.route].tray].empty = false) ∧
  s.dlu.bins[s.pds.routes[e.snap.route].bin].full = false ∧
  ∀ k ∈ e.snap.keys, s.pgd.stateOf k = some .ready ∨ s.pgd.stateOf k = some .locked

theorem admits_iff {e : Entry} : admits s e = true ↔ Admissible s e := by
  unfold admits Admissible
  simp only [Bool.and_eq_true, Bool.not_eq_true', decide_eq_true_eq, holdsPath_eq_false, Option.isNone_iff_eq_none,
    TrayFlags.state_eq_ready, List.all_eq_true, Directory.usable, State.route, and_assoc]
  exact Iff.rfl

/-! ### The slot and the tag (R51) -/

theorem freeSlot_lowest {l : List Sheet} {i : Fin 24} (hi : ∀ r ∈ l, r.slot ≠ i) (hb : ∀ k < i, ∃ r ∈ l, r.slot = k) :
    freeSlot l = some i := by
  refine find?_finRange (List.all_eq_true.2 fun r hr => decide_eq_true (hi r hr)) fun k hk => ?_
  obtain ⟨r, hr, hslot⟩ := hb k hk
  exact List.all_eq_false.2 ⟨r, hr, by simpa using hslot⟩

/-- The first free tag from the counter on is found in as many tries as it is away. -/
theorem freeTag_first {used : List Tag} {n fuel : Nat} (hn : n ≤ fuel) {t : Tag} (hfree : t + BitVec.ofNat 16 n ∉ used)
    (hb : ∀ j < n, t + BitVec.ofNat 16 j ∈ used) : freeTag used fuel t = t + BitVec.ofNat 16 n := by
  induction n generalizing t fuel with
  | zero =>
    have ht : t + BitVec.ofNat 16 0 = t := by simp
    rw [ht] at hfree ⊢
    cases fuel with
    | zero => rfl
    | succ fuel => exact if_neg (by simpa using hfree)
  | succ n ih =>
    obtain ⟨fuel, rfl⟩ : ∃ m, fuel = m + 1 := ⟨fuel - 1, by omega⟩
    have hstep (k : Nat) : t + BitVec.ofNat 16 (k + 1) = t + 1 + BitVec.ofNat 16 k := by bv_omega
    have hused : t ∈ used := by simpa using hb 0 (by omega)
    rw [hstep] at hfree ⊢
    refine (if_pos (by simpa using hused)).trans (ih (by omega) hfree fun j hj => ?_)
    rw [← hstep]
    exact hb (j + 1) (by omega)

/-! ### The admission (R137) -/

theorem admitGateHead_none (h : s.ogt.head = none) : admitGateHead s = s := by
  simp only [admitGateHead, h]

section
variable {e : Entry} (h : s.ogt.head = some e)
include h

theorem admitGateHead_waits (hn : ¬Admissible s e) : admitGateHead s = s := by
  have hno : ¬admits s e = true := mt admits_iff.1 hn
  unfold admitGateHead
  split
  next x slot hx _ =>
    rw [h, Option.some.injEq] at hx
    subst hx
    exact if_neg hno
  next => rfl

theorem admitGateHead_opens {slot : Fin 24} (ha : Admissible s e) (hslot : freeSlot s.stk.sheets = some slot) :
    admitGateHead s = openAdmission e slot s := by
  simp only [admitGateHead, h, hslot, admits_iff.2 ha, if_true]

end

theorem openAdmission_eq (e : Entry) (slot : Fin 24) {t : Tag}
    (ht : freeTag (s.stk.sheets.map (·.tag)) 24 s.ogt.tagCounter = t) : openAdmission e slot s = { s with
      stk := { s.stk with sheets := s.stk.sheets ++ [newSheet slot t e (!s.ogt.ril.isEmpty) s.ckm.tc] }
      li := Link.placeFeed (feedOf s t e) s.li
      ogt := { s.ogt with
        tagCounter := t + 1
        interlock := some t
        admitOrigin := e.origin
        ril := s.ogt.ril.tail
        orq := if s.ogt.ril.isEmpty then s.ogt.orq.tail else s.ogt.orq
        jobs := upd s.ogt.jobs e.job fun b =>
          if s.ogt.ril.isEmpty then { b with orq := b.orq - 1, stt := b.stt + 1 }
          else { b with ril := b.ril - 1, stt := b.stt + 1 } } } := by
  have htag : freeTag (s.stk.sheets.map (·.tag)) Config.sheetSlots s.ogt.tagCounter = t := ht
  unfold openAdmission
  rw [htag]
  cases hl : s.ogt.ril with
  | nil =>
    simp only [leaveList, onJob, State.onOgt, State.onLi, State.onStk, hl]
    rfl
  | cons x xs =>
    simp only [leaveList, onJob, State.onOgt, State.onLi, State.onStk, hl]
    rfl

end

end Sys2Proof.Machine

namespace Sys2Proof.Proofs
open Sys2Proof.Machine

/-- Settles O30: a withdrawal by the record its FEED names; an admission by the eight conditions, the lowest free slot and
the first free tag. -/
theorem admitGateHead : Obligations.AdmitGateHead := by
  unfold Obligations.AdmitGateHead
  refine ⟨⟨fun s => withdrawAdmission_none, fun s f => withdrawAdmission_ended, fun s f r h hr => ?withdrawn⟩,
    fun s hp => ⟨fun h => event_unchanged Machine.admitGateHead (admitGateHead_none h), fun e h => ?admitted⟩⟩
  case withdrawn =>
    refine ⟨withdrawAdmission_queued h hr, fun hq => ⟨_, withdrawAdmission_reissued h hr hq, ?_⟩⟩
    intro before after hl hb ha
    rw [hl]
    exact insertEntry_between _ hb ha
  case admitted =>
    intro rt ready
    have hready : ready ↔ Admissible s e := Iff.rfl
    refine ⟨fun hn => event_unchanged Machine.admitGateHead (admitGateHead_waits h hn), fun ha slot n hslot hlow => ?_⟩
    intro tag hn hfree hused sheet
    have htag : freeTag (s.stk.sheets.map (·.tag)) 24 s.ogt.tagCounter = tag n :=
      freeTag_first hn.le (by simpa using hfree) (by simpa using hused)
    have hopens := admitGateHead_opens h ha (freeSlot_lowest hslot hlow)
    refine (event_awake Machine.admitGateHead hp).trans ?_
    rw [hopens, openAdmission_eq e slot htag]
    rfl

end Sys2Proof.Proofs
end

section
/-!
TRAY READY (R142, R154) and the phases of MISFEED that hold a tray and let it go (R157, R158).
-/
namespace Sys2Proof.Machine

/-! ### TRAY READY (R142) -/

section
variable {q : Request} {s : State}

theorem trayReady_absent (h : 6 ≤ byteAt q.body 3) : trayReady q s = s.replied q .refusedInvalid [] := by
  simp only [trayReady, index?_eq_none h]
  rfl

section
variable {n : Tray} (hn : n.val = byteAt q.body 3)
include hn

theorem trayReady_notHeld (h : s.ogt.trays[n].held = false) : trayReady q s = s.replied q .refusedState [] := by
  simp only [trayReady, index?_eq_some hn, h]
  rfl

theorem trayReady_held (h : s.ogt.trays[n].held = true) :
    trayReady q s = (trayReadyReport (clearHeld n s)).replied q .done [] := by
  simp only [trayReady, index?_eq_some hn, h]
  rfl

end

/-- The gate head is fed from the tray. -/
def State.headUses (n : Tray) (s : State) : Bool := s.ogt.head.any fun e => decide ((s.route e.snap.route).tray = n)

theorem clearHeadRetries_eq (g : Gate) :
    g.clearHeadRetries = { g with ril := g.ril.modifyHead fun e => { e with retries := 0 } } := by
  rcases g with ⟨_, _ | _⟩ <;> rfl

theorem clearHeld_eq (n : Tray) (s : State) : clearHeld n s = { s with
    ogt := { s.ogt with
      trays := upd s.ogt.trays n fun f => { f with held := false }
      ril := s.ogt.ril.modifyHead fun e => if s.headUses n then { e with retries := 0 } else e } } := by
  have hsame : s.ogt.ril.modifyHead (fun e => e) = s.ogt.ril := by
    cases s.ogt.ril <;> rfl
  have hhead : (setTrayFlags n (fun f => { f with held := false }) s).ogt.head = s.ogt.head := rfl
  unfold clearHeld State.headUses
  simp only [hhead]
  cases s.ogt.head with
  | none =>
    simp only [Option.any_none, Bool.false_eq_true, if_false, hsame]
    rfl
  | some e =>
    by_cases ht : (s.route e.snap.route).tray = n
    · refine (if_pos ht).trans ?_
      simp only [Option.any_some, ht, decide_true, if_true, State.onOgt, clearHeadRetries_eq]
      rfl
    · refine (if_neg ht).trans ?_
      simp only [Option.any_some, ht, decide_false, Bool.false_eq_true, if_false, hsame]
      rfl

theorem trayReadyReport_quiet (h : s.rcc.activeIn .misfeed .trayHold = false) : trayReadyReport s = s :=
  if_neg (Bool.eq_false_iff.1 h)

theorem trayReadyReport_tests (h : s.rcc.activeIn .misfeed .trayHold = true) :
    trayReadyReport s = testTrayHold close s := if_pos h

end

/-! ### The records of MISFEED (R157, R158) -/

section
variable {s : State}

theorem onMisfeed_eq (f : Incident → Incident) (s : State) :
    onIncident .misfeed f s = { s with rcc := { s.rcc with misfeed := s.rcc.misfeed.map f } } := rfl

theorem onMisfeed_some {i : Incident} (f : Incident → Incident) (h : s.rcc.misfeed = some i) :
    onIncident .misfeed f s = { s with rcc := { s.rcc with misfeed := some (f i) } } := by
  rw [onMisfeed_eq, h, Option.map_some]

theorem holdList_misfeed {i : Incident} (h : s.rcc.misfeed = some i) : holdList .misfeed s = i.hold := by
  simp only [holdList, Recovery.get, h, Option.map_some, Option.getD_some]

/-- A MISFEED record in TRAY-HOLD keeps the trays whose held flag is set. -/
def Incident.inTrayHold (s : State) (i : Incident) : Incident :=
  { i with phase := .trayHold, hold := i.hold.filter (stillHeld s) }

theorem testTrayHold_eq {i : Incident} (cl : IncClass → State → State) (h : s.rcc.misfeed = some i) :
    testTrayHold cl s =
      if i.hold.filter (stillHeld s) = [] then
        cl .misfeed { s with rcc := { s.rcc with misfeed := some (i.inTrayHold s) } }
      else { s with rcc := { s.rcc with misfeed := some (i.inTrayHold s) } } := by
  unfold testTrayHold
  rw [onMisfeed_some _ h]
  dsimp only
  rw [holdList_misfeed (i := i.inTrayHold s) rfl]
  simp only [List.isEmpty_iff]
  rfl

/-! ### The retry test (R157) -/

/-- The retry test holds the tray and reports it. -/
def heldBack (m : Misfeed) (job : JobSlot) (n : Nat) (s : State) : State :=
  { s with
    ogt := { s.ogt with trays := upd s.ogt.trays m.tray fun f => { f with held := true } }
    li := Link.post (.misfeedReport m.tray m.tag m.seq job n s.pds.timing.misfeedLimit) s.li
    rcc := { s.rcc with misfeed := s.rcc.misfeed.map (joinHold (.tray m.tray)) } }

variable {m : Misfeed}

theorem retryTest_absent (h : retryCount s m.seq = none) : retryTest m s = s := by
  simp only [retryTest, h]

section
variable {n : Nat} (h : retryCount s m.seq = some n)
include h

theorem retryTest_within (hn : n ≤ s.pds.timing.misfeedLimit) : retryTest m s = s := by
  simp only [retryTest, h]
  exact if_neg (Nat.not_lt.2 hn)

theorem retryTest_exceeded (hn : s.pds.timing.misfeedLimit < n) :
    retryTest m s = heldBack m (jobOfSeq s m.seq) n s := by
  simp only [retryTest, h]
  exact if_pos hn

end

theorem joinHold_misfeed (o : Obj) (i : Incident) : (joinHold o i).misfeed = i.misfeed := by
  unfold joinHold
  split <;> rfl

/-- The retry test leaves the record's first misfeed as it is. -/
theorem retryTest_misfeed {i j : Incident} (hi : s.rcc.misfeed = some i) (hj : (retryTest m s).rcc.misfeed = some j) :
    j.misfeed = i.misfeed := by
  have hkept {u : State} (hu : u.rcc.misfeed = s.rcc.misfeed) (hj : u.rcc.misfeed = some j) : j.misfeed = i.misfeed := by
    rw [hu, hi, Option.some.injEq] at hj
    rw [hj]
  cases hc : retryCount s m.seq with
  | none =>
    rw [retryTest_absent hc] at hj
    exact hkept rfl hj
  | some n =>
    rcases Nat.lt_or_ge s.pds.timing.misfeedLimit n with hn | hn
    · rw [retryTest_exceeded hc hn, heldBack, hi, Option.map_some, Option.some.injEq] at hj
      rw [← hj, joinHold_misfeed]
    · rw [retryTest_within hc hn] at hj
      exact hkept rfl hj

/-- RETRY of a first misfeed that is not yet judged: it is tested and marked, and held trays keep the record open. -/
theorem enterRetry_unjudged {i j : Incident} (cl : IncClass → State → State) (hi : s.rcc.misfeed = some i)
    (hm : i.misfeed = some m) (hjudged : m.judged = false) (hj : (retryTest m s).rcc.misfeed = some j) {u : State}
    (hu : u = { retryTest m s with rcc := { (retryTest m s).rcc with
      misfeed := some { j with phase := .retry, misfeed := some { m with judged := true } } } }) :
    enterRetry cl s = if j.hold = [] then cl .misfeed u else testTrayHold cl u := by
  have hfirst : s.rcc.misfeed.bind (·.misfeed) = some m := by rw [hi, Option.bind_some, hm]
  have hmark : onIncident .misfeed (fun i => { i with
      phase := .retry, misfeed := i.misfeed.map fun m => { m with judged := true } }) (retryTest m s) = u := by
    rw [onMisfeed_some _ hj, retryTest_misfeed hi hj, hm, hu]
    rfl
  have hhold : holdList .misfeed u = j.hold := by
    have hrecord : u.rcc.misfeed = some { j with phase := .retry, misfeed := some { m with judged := true } } := by rw [hu]
    rw [holdList_misfeed hrecord]
  simp only [enterRetry, hfirst, hjudged, Bool.false_eq_true, if_false, hmark, hhold, List.isEmpty_iff]

/-! ### Where a sequence is held -/

section
variable {q : Seq}

/-- The first of some members of a list. -/
theorem find?_between {α : Type} {p : α → Bool} {before : List α} {x : α} {after : List α} (hb : ∀ y ∈ before, p y = false)
    (hx : p x = true) : (before ++ x :: after).find? p = some x :=
  List.find?_eq_some_iff_append.2 ⟨hx, before, after, rfl, fun y hy => by simp [hb y hy]⟩

theorem retryCount_listed {e : Entry} (h : s.ogt.ril.find? (·.seq = q) = some e) : retryCount s q = some e.retries := by
  simp only [retryCount, h]

theorem jobOfSeq_listed {e : Entry} (h : s.ogt.ril.find? (·.seq = q) = some e) : jobOfSeq s q = e.job := by
  simp only [jobOfSeq, h]

variable (hn : s.ogt.ril.find? (·.seq = q) = none)
include hn

theorem retryCount_unlisted : retryCount s q = (s.stk.sheets.find? (·.seq = q)).map (·.retries) := by
  simp only [retryCount, hn]

theorem jobOfSeq_unlisted {r : Sheet} (h : s.stk.sheets.find? (·.seq = q) = some r) : jobOfSeq s q = r.job := by
  simp only [jobOfSeq, hn, h, Option.map_some, Option.getD_some]

end
end

end Sys2Proof.Machine
namespace Sys2Proof.Proofs
open Sys2Proof.Machine

/-- Settles O26: TRAY READY by the tray it names; the test of TRAY-HOLD by what stays held; the retry test by the place that
holds the sequence; and RETRY. -/
theorem trayReady : Obligations.TrayReady := by
  unfold Obligations.TrayReady
  refine ⟨fun s q rest h hc hn => ?ready, fun s => trayReadyReport_tests, fun s i hi => ?hold, fun s m => ?retryTest,
    fun s i m hi hm hjudged => ?retry⟩
  case ready =>
    have hl := requestLengthOk_of_row (c := .trayReady) (by simp [requestRows]) hc hn
    have hw := decide_eq_true hc
    refine ⟨fun hr => event_answered h hw hl (trayReady_absent hr) rfl, fun n hbyte => ⟨fun hf => ?_, fun hf => ?_⟩⟩
    · exact event_answered h hw hl (trayReady_notHeld (s := s.taken rest) hbyte hf) rfl
    intro used t
    have hused : s.headUses n = used := by
      simp only [used, State.headUses]
      cases s.ogt.head <;> rfl
    have hclear : clearHeld n (s.taken rest) = t := by
      have hgate : (s.taken rest).ogt = s.ogt := rfl
      have huses : (s.taken rest).headUses n = used := hused
      rw [clearHeld_eq, huses, hgate]
      simp only [t]
      cases s.ogt.ril <;> rfl
    refine ⟨?_, fun hq => trayReadyReport_quiet (s := t) hq⟩
    rw [← hclear, ← trayReady_held (s := s.taken rest) hbyte hf]
    exact onRequest_taken Machine.trayReady h hc hl
  case hold =>
    intro holds u
    have hholds : stillHeld s = holds := funext fun o => by cases o <;> rfl
    have htest := testTrayHold_eq close hi
    rw [Incident.inTrayHold, hholds] at htest
    exact ⟨fun hn => htest.trans (if_neg hn), fun hn => htest.trans (if_pos hn)⟩
  case retryTest =>
    intro exceeded
    refine ⟨fun before e after hl hb he => ?_, fun hn => ⟨fun hs => ?_, fun before r after hl hb hr => ?_⟩⟩
    · have hfind : s.ogt.ril.find? (·.seq = m.seq) = some e := by
        rw [hl]
        exact find?_between (fun y hy => decide_eq_false (hb y hy)) (decide_eq_true he)
      have hcount := retryCount_listed hfind
      exact ⟨retryTest_within hcount, fun hx => (retryTest_exceeded hcount hx).trans (by rw [jobOfSeq_listed hfind]; rfl)⟩
    · have hnone : s.ogt.ril.find? (·.seq = m.seq) = none := List.find?_eq_none.2 fun x hx => by simpa using hn x hx
      have habsent : s.stk.sheets.find? (·.seq = m.seq) = none := List.find?_eq_none.2 fun x hx => by simpa using hs x hx
      exact retryTest_absent (by rw [retryCount_unlisted hnone, habsent, Option.map_none])
    · have hnone : s.ogt.ril.find? (·.seq = m.seq) = none := List.find?_eq_none.2 fun x hx => by simpa using hn x hx
      have hfind : s.stk.sheets.find? (·.seq = m.seq) = some r := by
        rw [hl]
        exact find?_between (fun y hy => decide_eq_false (hb y hy)) (decide_eq_true hr)
      have hcount : retryCount s m.seq = some r.retries := by rw [retryCount_unlisted hnone, hfind, Option.map_some]
      exact ⟨retryTest_within hcount,
        fun hx => (retryTest_exceeded hcount hx).trans (by rw [jobOfSeq_unlisted hnone hfind]; rfl)⟩
  case retry =>
    intro t j hj u
    have hretry := enterRetry_unjudged close hi hm hjudged hj (u := u) rfl
    exact ⟨fun hh => hretry.trans (if_pos hh), fun hh => hretry.trans (if_neg hh)⟩

end Sys2Proof.Proofs
end

section
/-!
CANCEL JOB (R109, R146): the lines of several owners invalidated in turn, the set of a cancelled job, and the job's entry.
-/
namespace Sys2Proof.Machine

/-! ### Lines of several owners (R109) -/

/-- Whether the line goes with its owner `x`; a pinned line stays and is marked. -/
def goesWith (x : Seq) (p : Nat × Line) : Bool := decide (p.2.owner = some x) && !p.2.pin

/-- A line that is left when the lines of the owners `qs` are invalidated. -/
def Line.marked (qs : List Seq) (l : Line) : Line :=
  { l with invalidateOnUnpin := l.invalidateOnUnpin || qs.any fun x => decide (l.owner = some x) }

theorem Line.marked_eq (qs : List Seq) (l : Line) : l.marked qs =
    if qs.any (fun x => decide (l.owner = some x)) then { l with invalidateOnUnpin := true } else l := by
  unfold Line.marked
  split
  next h => rw [h, Bool.or_true]
  next h => rw [Bool.eq_false_iff.2 h, Bool.or_false]

theorem invalidateOwner_eq (q : Seq) (d : Directory) : d.invalidateOwner q = { d with
    lines := (d.lines.filter fun p => !goesWith q p).map fun p => (p.1, p.2.marked [q])
    free := d.free ++ (d.lines.filter (goesWith q)).flatMap fun p => p.2.chain } := by
  simp only [Line.marked_eq, List.any_cons, List.any_nil, Bool.or_false, decide_eq_true_eq]
  rfl

section
variable {qs : List Seq} {q : Seq}

theorem Line.marked_marked (l : Line) : (l.marked qs).marked [q] = l.marked (qs ++ [q]) := by
  unfold Line.marked
  rw [List.any_append, ← Bool.or_assoc]

theorem goesWith_marked (p : Nat × Line) : goesWith q (p.1, p.2.marked qs) = goesWith q p := rfl

/-- A line goes with one owner. -/
theorem goesWith_unique {x : Seq} {p : Nat × Line} (hq : goesWith q p = true) (hx : goesWith x p = true) : x = q := by
  simp only [goesWith, Bool.and_eq_true, decide_eq_true_eq] at hq hx
  rw [hq.1] at hx
  exact (Option.some.inj hx.1).symm

/-- The lines of one more owner, among those that are left: none when it is among the owners before. -/
theorem filter_goesWith_left (lines : List (Nat × Line)) :
    (((lines.filter fun p => !qs.any fun x => goesWith x p).map fun p => (p.1, p.2.marked qs)).filter (goesWith q)) =
      if q ∈ qs then [] else (lines.filter (goesWith q)).map fun p => (p.1, p.2.marked qs) := by
  rw [List.filter_map, List.filter_filter]
  have hleft (p : Nat × Line) : ((goesWith q ∘ fun p => (p.1, p.2.marked qs)) p && !qs.any fun x => goesWith x p) =
      if q ∈ qs then false else goesWith q p := by
    rw [Function.comp_apply, goesWith_marked]
    cases hg : goesWith q p with
    | false => simp
    | true =>
      have hany : (qs.any fun x => goesWith x p) = true ↔ q ∈ qs := by
        refine List.any_eq_true.trans ⟨fun ⟨x, hx, hgx⟩ => ?_, fun hq => ⟨q, hq, hg⟩⟩
        rwa [← goesWith_unique hg hgx]
      by_cases hq : q ∈ qs
      · simp [hq, hany.2 hq]
      · simp [hq, Bool.eq_false_iff.2 (mt hany.1 hq)]
  simp only [hleft]
  split <;> simp

/-- Owner invalidation for several owners in turn: the chains join the free list owner by owner, each owner's once. -/
theorem invalidateOwners_eq (qs : List Seq) (d : Directory) : qs.foldl (fun d q => d.invalidateOwner q) d = { d with
    lines := (d.lines.filter fun p => !qs.any fun x => goesWith x p).map fun p => (p.1, p.2.marked qs)
    free := d.free ++ qs.eraseDups.flatMap fun x => (d.lines.filter (goesWith x)).flatMap fun p => p.2.chain } := by
  induction qs using List.reverseRecOn with
  | nil => simp [Line.marked]
  | append_singleton qs q ih =>
    have hlines : (((d.lines.filter fun p => !qs.any fun x => goesWith x p).map fun p => (p.1, p.2.marked qs)).filter
        fun p => !goesWith q p).map (fun p => (p.1, p.2.marked [q])) =
        (d.lines.filter fun p => !(qs ++ [q]).any fun x => goesWith x p).map fun p => (p.1, p.2.marked (qs ++ [q])) := by
      rw [List.filter_map, List.filter_filter, List.map_map]
      simp only [Function.comp_def, Line.marked_marked, goesWith_marked, List.any_append, List.any_cons, List.any_nil,
        Bool.or_false, Bool.not_or, Bool.and_comm]
    rw [List.foldl_append, ih, List.foldl_cons, List.foldl_nil, invalidateOwner_eq, hlines, filter_goesWith_left,
      List.eraseDups_append, List.flatMap_append, ← List.append_assoc]
    by_cases hq : q ∈ qs
    · simp [hq, List.removeAll]
    · simp [hq, List.removeAll, List.flatMap_map, List.eraseDups_cons, Line.marked]

end

theorem invalidateEntries_eq (l : List Entry) (s : State) :
    invalidateEntries l s = s.onPgd fun d => (l.map (·.seq)).foldl (fun d q => d.invalidateOwner q) d := by
  induction l generalizing s with
  | nil => rfl
  | cons e l ih => exact ih (invalidateOwner e.seq s)

/-! ### The set of a cancelled job (R88, R108, R146) -/

/-- The line is SETHELD for the set of the job, which is protected. -/
def OpenSet.guards (j : JobSlot) (l : Line) (o : OpenSet) : Bool :=
  decide (o.job = j ∧ o.guarded.isSome ∧ l.setTag = some ⟨o.job, o.set⟩)

/-- A line after the job's set has lost its protection. -/
def Line.afterCancel (j : JobSlot) (s : State) (l : Line) : Line :=
  if l.state = .setheld ∧ s.dlu.openSet.any (·.guards j l) = true then
    { l with state := .released, cls := effectiveClass s l.key, owner := none, setTag := none }
  else l

/-- `s` when the set of the job, if it has one, has lost its protection. -/
def State.unprotected (j : JobSlot) (s : State) : State :=
  { s with
    dlu := { s.dlu with openSet := s.dlu.openSet.map fun o => { o with guarded := if o.job = j then none else o.guarded } }
    pgd := { s.pgd with lines := s.pgd.lines.map fun p => (p.1, p.2.afterCancel j s) } }

section
variable {j : JobSlot} {s : State}

theorem unprotected_none (h : s.dlu.openSet = none) : s.unprotected j = s := by
  have hline (l : Line) : l.afterCancel j s = l := if_neg (by simp [h])
  simp only [State.unprotected, hline, h, Option.map_none, List.map_id']
  rw [← h]

section
variable {o : OpenSet} (h : s.dlu.openSet = some o)
include h

theorem unprotected_other (ho : o.job ≠ j ∨ o.guarded = none) : s.unprotected j = s := by
  have hline (l : Line) : l.afterCancel j s = l := by
    refine if_neg fun ⟨_, hg⟩ => ?_
    rw [h, Option.any_some, OpenSet.guards, decide_eq_true_eq] at hg
    obtain ⟨hj, hg, _⟩ := hg
    rcases ho with ho | ho
    · exact ho hj
    · simp [ho] at hg
  have hset : (if o.job = j then none else o.guarded) = o.guarded := by
    rcases ho with ho | ho
    · exact if_neg ho
    · rw [ho, ite_self]
  simp only [State.unprotected, hline, h, Option.map_some, hset, List.map_id']
  rw [← h]

/-- The protected set of the job loses its protection: its SETHELD lines become RELEASED. -/
theorem unprotected_own (hj : o.job = j) (hg : o.guarded.isSome) :
    s.unprotected j = loseProtection ⟨o.job, o.set⟩ s := by
  have hline (l : Line) : l.afterCancel j s = if l.state = .setheld ∧ l.setTag = some ⟨o.job, o.set⟩ then
      { l with state := .released, cls := effectiveClass s l.key, owner := none, setTag := none } else l := by
    have hguards : s.dlu.openSet.any (·.guards j l) = true ↔ l.setTag = some ⟨o.job, o.set⟩ := by
      rw [h, Option.any_some, OpenSet.guards, decide_eq_true_eq]
      simp only [hj, hg, true_and]
    simp only [Line.afterCancel, hguards]
  rw [loseProtection_own h hg, releaseSet_eq, State.unprotected]
  simp only [hline, h, Option.map_some, hj, if_true]
  rfl

end

/-- The open set of the job loses its protection, if it is protected (R146 step 4). -/
theorem loseProtection_job {o : OpenSet} (h : s.dlu.openSet = some o) (hj : o.job = j) :
    loseProtection ⟨o.job, o.set⟩ s = s.unprotected j := by
  cases hg : o.guarded with
  | none => rw [loseProtection_other h (.inl hg), unprotected_other h (.inr hg)]
  | some l => rw [unprotected_own h hj (Option.isSome_of_eq_some hg)]

end

theorem onOgt_eq_self {f : Gate → Gate} {s : State} (h : f s.ogt = s.ogt) : s.onOgt f = s := by rw [State.onOgt, h]

/-- The gate when the compile order set, if it is one of the job, is empty. -/
def Gate.withoutSet (j : JobSlot) (g : Gate) : Gate :=
  { g with compileSet := g.compileSet.filter fun x => decide (x.job ≠ j) }

section
variable {j : JobSlot} {g : Gate}

theorem withoutSet_kept (h : ∀ t, g.compileSet = some t → t.job ≠ j) : g.withoutSet j = g := by
  have hset : (g.compileSet.filter fun x => decide (x.job ≠ j)) = g.compileSet := by
    cases hc : g.compileSet with
    | none => rfl
    | some t => exact Option.filter_some_pos (decide_eq_true (h t hc))
  rw [Gate.withoutSet, hset]

theorem withoutSet_own {t : SetTag} (h : g.compileSet = some t) (ht : t.job = j) :
    g.withoutSet j = { g with compileSet := none } := by
  rw [Gate.withoutSet, h, Option.filter_some_neg (by simp [ht])]

end

theorem cancelSet_eq (j : JobSlot) (s : State) : cancelSet j s = (s.unprotected j).onOgt (Gate.withoutSet j) := by
  have hcompile (u : State) : (match u.ogt.compileSet with
      | some t => if t.job = j then u.onOgt fun g => { g with compileSet := none } else u
      | none => u) = u.onOgt (Gate.withoutSet j) := by
    cases hc : u.ogt.compileSet with
    | none =>
      have hkept : u.ogt.withoutSet j = u.ogt := withoutSet_kept fun t ht => by simp [hc] at ht
      exact (onOgt_eq_self hkept).symm
    | some t =>
      by_cases ht : t.job = j
      · rw [State.onOgt, State.onOgt, withoutSet_own hc ht]
        exact if_pos ht
      · have hkept : u.ogt.withoutSet j = u.ogt := withoutSet_kept fun x hx => by
          rw [hc, Option.some.injEq] at hx
          exact hx ▸ ht
        exact (if_neg ht).trans (onOgt_eq_self hkept).symm
  cases ho : s.dlu.openSet with
  | none =>
    simp only [cancelSet, ho]
    exact (hcompile s).trans (by rw [unprotected_none ho])
  | some o =>
    by_cases hj : o.job = j
    · subst hj
      simp only [cancelSet, ho, if_true, loseProtection_job ho]
      exact hcompile _
    · simp only [cancelSet, ho, hj, if_false]
      exact (hcompile s).trans (by rw [unprotected_other ho (.inl hj)])

/-! ### The job's entry and the request (R145, R146) -/

theorem upd_congr {α : Type} {n : Nat} (v : Vector α n) (i : Fin n) {f g : α → α} (h : f v[i] = g v[i]) :
    upd v i f = upd v i g := by
  unfold upd
  rw [h]

/-- JOB DONE and the FREE entry, when the entry is done. -/
theorem checkDone_eq (j : JobSlot) (s : State) : checkDone j s = { s with
    ogt := { s.ogt with jobs := upd s.ogt.jobs j fun b => { b with state := if b.done then .free else b.state } }
    li := if (s.ogt.jobs[j]).done then
        Link.post (.jobDone s.ogt.jobs[j].id j (decide (s.ogt.jobs[j].state = .cancelling)) s.ogt.jobs[j].delivered
          s.ogt.jobs[j].purged s.ogt.jobs[j].removed) s.li
      else s.li } := by
  by_cases hd : (s.ogt.jobs[j]).done = true
  · have hjobs := upd_congr s.ogt.jobs j (f := fun b => { b with state := .free })
      (g := fun b => { b with state := if b.done then .free else b.state }) (by simp only [hd, if_true])
    rw [checkDone_done hd, if_pos hd, ← hjobs]
    rfl
  · rw [checkDone_waits (Bool.eq_false_iff.2 hd), if_neg hd, upd_id _ _ (by simp only [hd]; rfl)]

theorem cancelling_done_iff (b : Job) :
    ({ b with state := .cancelling, orq := 0, ril := 0 } : Job).done = true ↔ b.stt = 0 ∧ b.set = 0 := by
  simp [Job.done]

/-- A job without entries is done as soon as it is CANCELLING and has no sheet left. -/
theorem checkDone_cancelling {j : JobSlot} {s : State} {jobs : Vector Job 8}
    (h : s.ogt.jobs = upd jobs j fun b => { b with state := .cancelling, orq := 0, ril := 0 }) : checkDone j s = { s with
      ogt := { s.ogt with jobs := upd jobs j fun b => { b with
        state := if b.stt = 0 ∧ b.set = 0 then .free else .cancelling, orq := 0, ril := 0 } }
      li := if jobs[j].stt = 0 ∧ jobs[j].set = 0 then
          Link.post (.jobDone jobs[j].id j true jobs[j].delivered jobs[j].purged jobs[j].removed) s.li
        else s.li } := by
  rw [checkDone_eq, h, upd_same, upd_upd]
  simp only [cancelling_done_iff]
  rfl

/-- The sequences of the job's entries, in list order. -/
def Gate.seqsOf (j : JobSlot) (g : Gate) : List Seq := (ofJob j (g.orq ++ g.ril)).map (·.seq)

/-- `s` when the job's entries have left both lists, with their lines (R109, R146 steps 1 to 3). -/
def State.withoutEntries (j : JobSlot) (s : State) : State :=
  { s with
    pgd := (s.ogt.seqsOf j).foldl (fun d q => d.invalidateOwner q) s.pgd
    ogt := { s.ogt with
      orq := notOfJob j s.ogt.orq
      ril := notOfJob j s.ogt.ril
      jobs := upd s.ogt.jobs j fun b => { b with state := .cancelling, orq := 0, ril := 0 } } }

section
variable {q : Request} {j : JobSlot} {s : State}

theorem cancel_steps (q : Request) (j : JobSlot) (s : State) : cancel q j s =
    checkDone j ((cancelSet j (s.withoutEntries j)).replied q .done
      (num1 (ofJob j s.ogt.orq).length ++ num1 (ofJob j s.ogt.ril).length)) := by
  have hlines : (s.ogt.seqsOf j).foldl (fun d q => d.invalidateOwner q) s.pgd =
      ((ofJob j s.ogt.ril).map (·.seq)).foldl (fun d q => d.invalidateOwner q)
        (((ofJob j s.ogt.orq).map (·.seq)).foldl (fun d q => d.invalidateOwner q) s.pgd) := by
    rw [Gate.seqsOf, ofJob, List.filter_append, List.map_append, List.foldl_append]
    rfl
  unfold cancel
  rw [State.withoutEntries, hlines]
  simp only [invalidateEntries_eq, onJob, State.onOgt, State.onPgd, upd_upd]
  rfl

/-- The classes are those of before: the job is not FREE yet, and the mode pair stays. -/
theorem effectiveClass_withoutEntries (hj : s.ogt.jobs[j].state ≠ .free) :
    effectiveClass (s.withoutEntries j) = effectiveClass s := by
  refine effectiveClass_congr ?_ (jobClass_upd (g := s.ogt) ?_ rfl)
  · rw [State.withoutEntries, invalidateOwners_eq]
    rfl
  · exact iff_of_false nofun hj

theorem cancelJob_absent (h : jobSlotOf s.ogt (halfAt q.body 3) = none) :
    cancelJob q s = s.replied q .refusedInvalid [] := by
  simp only [cancelJob, h]
  rfl

section
variable (h : jobSlotOf s.ogt (halfAt q.body 3) = some j)
include h

theorem cancelJob_refused (hc : s.ogt.jobs[j].state = .cancelling) : cancelJob q s = s.replied q .refusedState [] := by
  simp only [cancelJob, h]
  exact if_pos hc

theorem cancelJob_cancels (hc : s.ogt.jobs[j].state ≠ .cancelling) : cancelJob q s = cancel q j s := by
  simp only [cancelJob, h]
  exact if_neg hc

end

/-- The set loses its protection among the lines that are left. -/
theorem unprotected_withoutEntries (hj : s.ogt.jobs[j].state ≠ .free) :
    (s.withoutEntries j).unprotected j = { s.withoutEntries j with
      dlu := (s.unprotected j).dlu
      pgd := { s.pgd with
        lines := (s.pgd.lines.filter fun p => !(s.ogt.seqsOf j).any fun x => goesWith x p).map fun p =>
          (p.1, (p.2.marked (s.ogt.seqsOf j)).afterCancel j s)
        free := s.pgd.free ++ (s.ogt.seqsOf j).eraseDups.flatMap fun x =>
          (s.pgd.lines.filter (goesWith x)).flatMap fun p => p.2.chain } } := by
  have hafter (l : Line) : l.afterCancel j (s.withoutEntries j) = l.afterCancel j s := by
    rw [Line.afterCancel, effectiveClass_withoutEntries hj]
    rfl
  rw [State.unprotected]
  simp only [hafter]
  simp only [State.withoutEntries, invalidateOwners_eq, List.map_map]
  rfl

theorem cancel_eq (q : Request) (hj : s.ogt.jobs[j].state ≠ .free) : cancel q j s = { s with
    dlu := (s.unprotected j).dlu
    pgd := { s.pgd with
      lines := (s.pgd.lines.filter fun p => !(s.ogt.seqsOf j).any fun x => goesWith x p).map fun p =>
        (p.1, (p.2.marked (s.ogt.seqsOf j)).afterCancel j s)
      free := s.pgd.free ++ (s.ogt.seqsOf j).eraseDups.flatMap fun x =>
        (s.pgd.lines.filter (goesWith x)).flatMap fun p => p.2.chain }
    ogt := { s.ogt.withoutSet j with
      orq := notOfJob j s.ogt.orq
      ril := notOfJob j s.ogt.ril
      jobs := upd s.ogt.jobs j fun b => { b with
        state := if b.stt = 0 ∧ b.set = 0 then .free else .cancelling, orq := 0, ril := 0 } }
    li :=
      let answered := (s.replied q .done (num1 (ofJob j s.ogt.orq).length ++ num1 (ofJob j s.ogt.ril).length)).li
      if s.ogt.jobs[j].stt = 0 ∧ s.ogt.jobs[j].set = 0 then
        Link.post (.jobDone s.ogt.jobs[j].id j true s.ogt.jobs[j].delivered s.ogt.jobs[j].purged
          s.ogt.jobs[j].removed) answered
      else answered } := by
  rw [cancel_steps, cancelSet_eq, unprotected_withoutEntries hj, checkDone_cancelling (jobs := s.ogt.jobs) rfl]
  rfl

end

end Sys2Proof.Machine

namespace Sys2Proof.Proofs
open Sys2Proof.Machine

/-- Settles O25: the entry that holds the id is refused when it is CANCELLING, else cancelled block by block. -/
theorem cancelJob : Obligations.CancelJob := by
  unfold Obligations.CancelJob
  intro s q rest h hc hn id
  have hl := requestLengthOk_of_row (c := .cancelJob) (by simp [requestRows]) hc hn
  have hw := decide_eq_true hc
  refine ⟨fun hi => ?absent, fun j hs hid hlow => ?held⟩
  case absent =>
    exact event_answered h hw hl (cancelJob_absent (s := s.taken rest) (jobSlotOf_none hi)) rfl
  case held =>
    have hslot : jobSlotOf (s.taken rest).ogt (halfAt q.body 3) = some j := jobSlotOf_first hs hid hlow
    intro b mine goes guards marked released
    refine ⟨fun hb => event_answered h hw hl (cancelJob_refused hslot hb) rfl, fun hb => ?_⟩
    have hcancel : Machine.cancelJob q (s.taken rest) = cancel q j (s.taken rest) := cancelJob_cancels hslot hb
    have hmarked : marked = Line.marked mine := funext fun l => (l.marked_eq mine).symm
    refine ⟨cancel q j (s.taken rest), hcancel ▸ onRequest_taken Machine.cancelJob h hc hl, ?_⟩
    rw [cancel_eq q (s := s.taken rest) hs]
    refine ⟨rfl, rfl, rfl, rfl, rfl, rfl, rfl, rfl, rfl, rfl, rfl, rfl, rfl, rfl, fun o ho => ?_, fun ho => ?_, ?_, rfl⟩
    · exact congrArg (Option.map _) ho
    · exact congrArg (Option.map _) ho
    · rw [hmarked]
      rfl

end Sys2Proof.Proofs
end

section
/-!
The Incident Table and the Recovery Stack (R148, R150, R152, R153): what holds of the ACTIVE class, the order a record's opening
and closing keep, and what goes on without either.
-/
namespace Sys2Proof.Machine

/-! ## The records of the table -/

@[simp] theorem get_set_same (r : Recovery) (c : IncClass) (i : Option Incident) : (r.set c i).get c = i := by
  cases c <;> rfl

theorem get_set_other (r : Recovery) {c d : IncClass} (i : Option Incident) (h : d ≠ c) : (r.set c i).get d = r.get d := by
  cases c <;> cases d <;> first | rfl | exact absurd rfl h

@[simp] theorem stack_set (r : Recovery) (c : IncClass) (i : Option Incident) : (r.set c i).stack = r.stack := by
  cases c <;> rfl

@[simp] theorem statusOf_set_same (r : Recovery) (c : IncClass) (i : Option Incident) :
    (r.set c i).statusOf c = i.map (·.status) := by rw [Recovery.statusOf, get_set_same]

theorem statusOf_set_other (r : Recovery) {c d : IncClass} (i : Option Incident) (h : d ≠ c) :
    (r.set c i).statusOf d = r.statusOf d := by rw [Recovery.statusOf, get_set_other r i h, Recovery.statusOf]

theorem statusOf_eq_none {r : Recovery} {c : IncClass} : r.statusOf c = none ↔ r.get c = none := Option.map_eq_none_iff

theorem statusOf_of_get {r : Recovery} {c : IncClass} {i : Incident} (h : r.get c = some i) :
    r.statusOf c = some i.status := by rw [Recovery.statusOf, h, Option.map_some]

theorem get_of_statusOf {r : Recovery} {c : IncClass} {x : IncStatus} (h : r.statusOf c = some x) :
    ∃ i, r.get c = some i ∧ i.status = x := Option.map_eq_some_iff.1 h

theorem IncClass.mem_all (c : IncClass) : c ∈ IncClass.all := by cases c <;> decide

theorem status_of_active {r : Recovery} {a : IncClass} (h : r.active = some a) : r.statusOf a = some .active := by
  simpa using List.find?_some h

/-- It is the most urgent of the records that are ACTIVE. -/
theorem active_le {r : Recovery} {a c : IncClass} (h : r.active = some a) (hc : r.statusOf c = some .active) :
    a.level ≤ c.level := by
  obtain ⟨_, before, after, hall, hbefore⟩ := List.find?_eq_some_iff_append.1 h
  have hsorted : IncClass.all.Pairwise fun x y => x.level < y.level := by decide
  have hmem := IncClass.mem_all c
  rw [hall] at hsorted hmem
  rcases List.mem_append.1 hmem with hc' | hc'
  · exact absurd hc (by simpa using hbefore c hc')
  · rcases List.mem_cons.1 hc' with rfl | hc'
    · exact Nat.le_refl _
    · exact Nat.le_of_lt ((List.pairwise_cons.1 (List.pairwise_append.1 hsorted).2.1).1 c hc')

theorem active_eq_none {r : Recovery} : r.active = none ↔ ∀ c, r.statusOf c ≠ some .active := by
  simp [Recovery.active, IncClass.mem_all]

/-- The ACTIVE class depends on which records are ACTIVE alone. -/
theorem active_congr {r t : Recovery} (h : ∀ c, t.statusOf c = some .active ↔ r.statusOf c = some .active) :
    t.active = r.active := by simp only [Recovery.active, h]

theorem firstPending_eq_none {r : Recovery} : r.firstPending = none ↔ ∀ c, r.statusOf c ≠ some .pending := by
  simp [Recovery.firstPending, IncClass.mem_all]

/-- The state a new record takes: PENDING under a more urgent ACTIVE one, else ACTIVE (R150). -/
theorem statusFor_eq (r : Recovery) (c : IncClass) :
    r.statusFor c = if ∃ a, r.active = some a ∧ ¬c.level < a.level then .pending else .active := by
  unfold Recovery.statusFor
  cases r.active with
  | none => simp
  | some a => by_cases h : c.level < a.level <;> simp [h]

theorem level_lt_of_not_lt {a b : IncClass} (h : ¬b.level < a.level) (hne : a ≠ b) : a.level < b.level :=
  Nat.lt_of_le_of_ne (Nat.not_lt.1 h) fun he => hne (level_injective he)

/-! ## The order of the table -/

section
variable {r t : Recovery}

/-- The order is one of statuses and of the stack alone. -/
theorem RecoveryOk.of_statuses (h : RecoveryOk r) (hs : ∀ c, t.statusOf c = r.statusOf c) (hk : t.stack = r.stack) :
    RecoveryOk t where
  oneActive a b := by rw [hs, hs]; exact h.oneActive a b
  someActive c hc := by
    simp only [hs]
    refine h.someActive c ?_
    rwa [← Option.isSome_map (f := (·.status)), ← Recovery.statusOf, ← hs, Recovery.statusOf, Option.isSome_map]
  frames c := by rw [hk, hs]; exact h.frames c
  order := hk ▸ h.order
  below a := by rw [hs, hk]; exact h.below a
  waiting a c := by rw [hs, hs]; exact h.waiting a c

/-- Without an ACTIVE record no record is open and the stack is empty. -/
theorem RecoveryOk.clear_of_inactive (h : RecoveryOk r) (ha : ∀ c, r.statusOf c ≠ some .active) :
    (∀ c, r.statusOf c = none) ∧ r.stack = [] := by
  have hnone : ∀ c, r.statusOf c = none := fun c => by
    by_contra hc
    obtain ⟨a, hact⟩ := h.someActive c (Option.isSome_iff_ne_none.2 (mt statusOf_eq_none.2 hc))
    exact ha a hact
  exact ⟨hnone, List.eq_nil_iff_forall_not_mem.2 fun c hc => by simpa [hnone] using (h.frames c).1 hc⟩

/-- A table without open records. -/
theorem RecoveryOk.of_clear (hs : ∀ c, r.statusOf c = none) (hk : r.stack = []) : RecoveryOk r where
  oneActive := by simp [hs]
  someActive c hc := by simp [statusOf_eq_none.1 (hs c)] at hc
  frames := by simp [hs, hk]
  order := by simp [hk]
  below := by simp [hs]
  waiting := by simp [hs]

/-- A table whose ACTIVE record is `d`, above every other record that is open. -/
theorem RecoveryOk.of_active {d : IncClass} (hd : r.statusOf d = some .active)
    (hone : ∀ c, c ≠ d → r.statusOf c ≠ some .active) (frames : ∀ c, c ∈ r.stack ↔ r.statusOf c = some .preempted)
    (order : (d :: r.stack).Pairwise fun a b => a.level < b.level)
    (waiting : ∀ c, r.statusOf c = some .pending → d.level < c.level) : RecoveryOk r := by
  have only {a : IncClass} (ha : r.statusOf a = some .active) : a = d := by
    by_contra hne
    exact hone a hne ha
  obtain ⟨hbelow, horder⟩ := List.pairwise_cons.1 order
  exact {
    oneActive := fun a b ha hb => (only ha).trans (only hb).symm
    someActive := fun _ _ => ⟨d, hd⟩
    frames := frames
    order := horder
    below := fun a ha => only ha ▸ hbelow
    waiting := fun a c ha => only ha ▸ waiting c }

/-- The ACTIVE record is the most urgent one open. -/
theorem RecoveryOk.active_urgent {a c : IncClass} (h : RecoveryOk r) (ha : r.statusOf a = some .active)
    (hc : r.statusOf c ≠ none) (hne : c ≠ a) : a.level < c.level := by
  cases hs : r.statusOf c with
  | none => exact absurd hs hc
  | some st =>
    cases st with
    | pending => exact h.waiting a c ha hs
    | active => exact absurd (h.oneActive c a hs ha) hne
    | preempted => exact h.below a ha c ((h.frames c).2 hs)

/-! ### A record opens (R150) -/

section
variable {c : IncClass} (h : RecoveryOk r) (hc : r.statusOf c = none)
include h hc

theorem RecoveryOk.opens_alone (ha : r.active = none) (hs : t.statusOf c = some .active)
    (ho : ∀ d, d ≠ c → t.statusOf d = r.statusOf d) (hk : t.stack = r.stack) : RecoveryOk t := by
  obtain ⟨hnone, hstack⟩ := h.clear_of_inactive (active_eq_none.1 ha)
  have hother : ∀ d, d ≠ c → t.statusOf d = none := fun d hd => (ho d hd).trans (hnone d)
  refine .of_active hs (fun d hd => by simp [hother d hd]) (fun d => ?_) (by simp [hk, hstack]) (fun d hd => ?_)
  all_goals by_cases hdc : d = c
  · subst hdc; simp [hk, hstack, hs]
  · simp [hk, hstack, hother d hdc]
  · subst hdc; simp [hs] at hd
  · simp [hother d hdc] at hd

theorem RecoveryOk.opens_waiting {a : IncClass} (ha : r.active = some a) (hlt : ¬c.level < a.level)
    (hs : t.statusOf c = some .pending) (ho : ∀ d, d ≠ c → t.statusOf d = r.statusOf d) (hk : t.stack = r.stack) :
    RecoveryOk t := by
  have hact := status_of_active ha
  have hac : a ≠ c := fun he => by simp [he, hc] at hact
  refine .of_active ((ho a hac).trans hact) (fun d hd => ?_) (fun d => ?_) ?_ (fun d hd => ?_)
  · by_cases hdc : d = c
    · subst hdc; simp [hs]
    · rw [ho d hdc]; exact fun hda => hd (h.oneActive d a hda hact)
  · by_cases hdc : d = c
    · subst hdc; simp [hk, hs, h.frames, hc]
    · rw [hk, ho d hdc, h.frames]
  · rw [hk]; exact List.pairwise_cons.2 ⟨h.below a hact, h.order⟩
  · by_cases hdc : d = c
    · subst hdc; exact level_lt_of_not_lt hlt hac
    · exact h.waiting a d hact (ho d hdc ▸ hd)

theorem RecoveryOk.opens_preempting {a : IncClass} (ha : r.active = some a) (hlt : c.level < a.level)
    (hs : t.statusOf c = some .active) (hp : t.statusOf a = some .preempted)
    (ho : ∀ d, d ≠ c → d ≠ a → t.statusOf d = r.statusOf d) (hk : t.stack = a :: r.stack) : RecoveryOk t := by
  have hact := status_of_active ha
  have hbelow := h.below a hact
  refine .of_active hs (fun d hd => ?_) (fun d => ?_) ?_ (fun d hd => ?_)
  · by_cases hda : d = a
    · subst hda; simp [hp]
    · rw [ho d hd hda]; exact fun hs => hda (h.oneActive d a hs hact)
  · rw [hk, List.mem_cons]
    by_cases hda : d = a
    · simp [hda, hp]
    · by_cases hdc : d = c
      · subst hdc; simp [hda, hs, h.frames, hc]
      · rw [ho d hdc hda, h.frames]; simp [hda]
  · rw [hk]
    refine List.pairwise_cons.2 ⟨fun d hd => ?_, List.pairwise_cons.2 ⟨hbelow, h.order⟩⟩
    rcases List.mem_cons.1 hd with rfl | hd
    · exact hlt
    · exact hlt.trans (hbelow d hd)
  · have hdc : d ≠ c := fun he => by simp [he, hs] at hd
    have hda : d ≠ a := fun he => by simp [he, hp] at hd
    exact hlt.trans (h.waiting a d hact (ho d hdc hda ▸ hd))

end

/-! ### A record closes and the next acts (R153) -/

/-- Which record acts next: the most urgent PENDING one, if it is more urgent than the top frame's, or else that frame's. -/
theorem choose_eq_some {d : IncClass} (h : r.choose = some d) :
    (r.firstPending = some d ∧ ∀ e ts, r.stack = e :: ts → d.level < e.level) ∨
    ∃ ts, r.stack = d :: ts ∧ ∀ p, r.firstPending = some p → ¬p.level < d.level := by
  unfold Recovery.choose at h
  split at h
  next p e ts hp hk =>
    split at h
    next hlt =>
      cases h
      refine .inl ⟨hp, fun x xs hx => ?_⟩
      rw [hk] at hx; cases hx; exact hlt
    next hlt =>
      cases h
      refine .inr ⟨ts, hk, fun x hx => ?_⟩
      rw [hp] at hx; cases hx; exact hlt
  next hp hk => cases h; exact .inl ⟨hp, fun _ _ hx => by simp [hk] at hx⟩
  next hp hk => cases h; exact .inr ⟨_, hk, fun _ hx => by simp [hp] at hx⟩
  next => cases h

theorem choose_eq_none : r.choose = none ↔ r.firstPending = none ∧ r.stack = [] := by
  unfold Recovery.choose
  split
  next hp hk => split <;> simp [hp]
  all_goals simp_all

/-- A PENDING record is next when it is the most urgent of them and more urgent than the top frame's. -/
theorem choose_pending {d : IncClass} (hp : r.firstPending = some d) (ht : ∀ e ts, r.stack = e :: ts → d.level < e.level) :
    r.choose = some d := by
  unfold Recovery.choose
  cases hk : r.stack with
  | nil => simp [hp]
  | cons e ts => simp [hp, ht e ts hk]

/-- The top frame's record is next when no PENDING one is more urgent. -/
theorem choose_top {d : IncClass} {ts : List IncClass} (hk : r.stack = d :: ts)
    (hp : ∀ p, r.firstPending = some p → ¬p.level < d.level) : r.choose = some d := by
  unfold Recovery.choose
  cases hf : r.firstPending with
  | none => simp [hk]
  | some p => simp [hk, hp p hf]

/-- The table between a close and the next record's start: in order, but without an ACTIVE record. -/
structure Recovery.Between (r : Recovery) : Prop where
  inactive : ∀ c, r.statusOf c ≠ some .active
  frames : ∀ c, c ∈ r.stack ↔ r.statusOf c = some .preempted
  order : r.stack.Pairwise fun a b => a.level < b.level

/-- The ACTIVE record closes. -/
theorem RecoveryOk.closes {c : IncClass} (h : RecoveryOk r) (hc : r.statusOf c = some .active) (hs : t.statusOf c = none)
    (ho : ∀ d, d ≠ c → t.statusOf d = r.statusOf d) (hk : t.stack = r.stack) : t.Between where
  inactive d := by
    by_cases hd : d = c
    · simp [hd, hs]
    · rw [ho d hd]; exact fun ha => hd (h.oneActive d c ha hc)
  frames d := by
    by_cases hd : d = c
    · simp [hd, hk, hs, h.frames, hc]
    · rw [hk, ho d hd, h.frames]
  order := hk ▸ h.order

section
variable {d : IncClass} (h : r.Between)
include h

/-- No record is next: none is open. -/
theorem Recovery.Between.rests (hn : r.choose = none) : RecoveryOk r := by
  obtain ⟨hp, hk⟩ := choose_eq_none.1 hn
  refine .of_clear (fun c => ?_) hk
  cases hs : r.statusOf c with
  | none => rfl
  | some st =>
    cases st with
    | pending => exact absurd hs (firstPending_eq_none.1 hp c)
    | active => exact absurd hs (h.inactive c)
    | preempted => have hm := (h.frames c).2 hs; simp [hk] at hm

/-- The next record starts or resumes: it becomes ACTIVE, and a frame leaves the stack with its record. -/
theorem Recovery.Between.activates (hn : r.choose = some d) (hs : t.statusOf d = some .active)
    (ho : ∀ c, c ≠ d → t.statusOf c = r.statusOf c)
    (hk : t.stack = if r.statusOf d = some .pending then r.stack else r.stack.tail) : RecoveryOk t := by
  have inactive (c : IncClass) (hc : c ≠ d) : t.statusOf c ≠ some .active := ho c hc ▸ h.inactive c
  have urgent {p c : IncClass} (hp : r.firstPending = some p) (hc : t.statusOf c = some .pending) :
      c ≠ d ∧ p.level ≤ c.level := by
    have hcd : c ≠ d := fun he => by simp [he, hs] at hc
    exact ⟨hcd, ((firstPending_iff r p).1 hp).2 c (ho c hcd ▸ hc)⟩
  rcases choose_eq_some hn with ⟨hp, htop⟩ | ⟨ts, hstack, hlow⟩
  · have hd := ((firstPending_iff r d).1 hp).1
    rw [if_pos hd] at hk
    refine .of_active hs inactive (fun c => ?_) ?_ (fun c hc => ?_)
    · by_cases hcd : c = d
      · simp [hcd, hk, h.frames, hd, hs]
      · rw [hk, ho c hcd, h.frames]
    · rw [hk]
      refine List.pairwise_cons.2 ⟨fun e he => ?_, h.order⟩
      cases hl : r.stack with
      | nil => simp [hl] at he
      | cons x xs =>
        have horder := hl ▸ h.order
        rw [hl] at he
        rcases List.mem_cons.1 he with rfl | he
        · exact htop e xs hl
        · exact (htop x xs hl).trans ((List.pairwise_cons.1 horder).1 e he)
    · obtain ⟨hcd, hle⟩ := urgent hp hc
      exact Nat.lt_of_le_of_ne hle fun he => hcd (level_injective he).symm
  · have hd : r.statusOf d = some .preempted := (h.frames d).1 (by simp [hstack])
    rw [if_neg (by simp [hd]), hstack, List.tail_cons] at hk
    have horder : (d :: ts).Pairwise fun a b => a.level < b.level := hstack ▸ h.order
    refine .of_active hs inactive (fun c => ?_) (hk ▸ horder) (fun c hc => ?_)
    · by_cases hcd : c = d
      · have hnot : d ∉ ts := fun hm => Nat.lt_irrefl _ ((List.pairwise_cons.1 horder).1 d hm)
        simp [hcd, hk, hnot, hs]
      · rw [hk, ho c hcd, ← h.frames, hstack, List.mem_cons]; simp [hcd]
    · cases hp : r.firstPending with
      | none =>
        have hcd : c ≠ d := fun he => by simp [he, hs] at hc
        exact absurd (ho c hcd ▸ hc) (firstPending_eq_none.1 hp c)
      | some p =>
        obtain ⟨hcd, hle⟩ := urgent hp hc
        exact level_lt_of_not_lt (fun hlt => hlow p hp (Nat.lt_of_le_of_lt hle hlt)) (Ne.symm hcd)

end
end

/-! ## What goes on without an opening or a closing -/

/-- What of a record its phase, hold list and notes leave as it is. -/
def Incident.tally (i : Incident) : IncStatus × Cause × Nat × List Detail × Bool :=
  (i.status, i.first, i.count, i.details, i.setPurge)

/-- What goes on in the table while no occurrence is taken and no record closes: phases, hold lists and notes change, and the
gate's watch may open or merge into a SUPPLY (R141). -/
structure Recovery.Calm (r t : Recovery) : Prop where
  stack : t.stack = r.stack
  others : ∀ c, c ≠ .supply → (t.get c).map Incident.tally = (r.get c).map Incident.tally
  supply : t.statusOf .supply = r.statusOf .supply ∨
    r.statusOf .supply = none ∧ t.statusOf .supply = some (r.statusFor .supply)

namespace Recovery.Calm
variable {r t u : Recovery}

theorem refl (r : Recovery) : r.Calm r := ⟨rfl, fun _ _ => rfl, .inl rfl⟩

theorem statusOf (h : r.Calm t) {c : IncClass} (hc : c ≠ .supply) : t.statusOf c = r.statusOf c := by
  have hm := congrArg (Option.map Prod.fst) (h.others c hc)
  rw [Option.map_map, Option.map_map] at hm
  exact hm

/-- An open record keeps its status. -/
theorem statusOf_open (h : r.Calm t) {c : IncClass} (hr : r.statusOf c ≠ none) : t.statusOf c = r.statusOf c := by
  by_cases hc : c = .supply
  · subst hc
    exact h.supply.resolve_right fun hs => hr hs.1
  · exact h.statusOf hc

theorem active (h : r.Calm t) (c : IncClass) (hr : r.statusOf c = some .active) : t.statusOf c = some .active :=
  (h.statusOf_open (by simp [hr])).trans hr

/-- An open record other than the SUPPLY keeps its tally. -/
theorem record (h : r.Calm t) {c : IncClass} (hc : c ≠ .supply) {i : Incident} (hi : r.get c = some i) :
    ∃ j, t.get c = some j ∧ j.tally = i.tally := by
  have ho := h.others c hc
  rw [hi, Option.map_some] at ho
  exact Option.map_eq_some_iff.1 ho

theorem supply_pending {a : IncClass} (ha : r.active = some a) : r.statusFor .supply = .pending := by
  rw [statusFor_eq, if_pos ⟨a, ha, level_le_supply a⟩]

theorem supply_active (ha : r.active = none) : r.statusFor .supply = .active := by
  rw [statusFor_eq, if_neg (by simp [ha])]

/-- The ACTIVE record stays the ACTIVE one. -/
theorem active_eq {a : IncClass} (h : r.Calm t) (ha : r.active = some a) : t.active = some a := by
  refine (active_congr fun c => ?_).trans ha
  by_cases hc : c = .supply
  · subst hc
    rcases h.supply with hs | ⟨hn, hs⟩
    · rw [hs]
    · simp [hs, hn, supply_pending ha]
  · rw [h.statusOf hc]

theorem trans (h : r.Calm t) (k : t.Calm u) : r.Calm u where
  stack := k.stack.trans h.stack
  others c hc := (k.others c hc).trans (h.others c hc)
  supply := by
    rcases h.supply with hs | ⟨hn, hs⟩ <;> rcases k.supply with ks | ⟨kn, ks⟩
    · exact .inl (ks.trans hs)
    · have hact : t.active = r.active := active_congr fun c => by
        by_cases hc : c = .supply
        · subst hc; rw [hs]
        · rw [h.statusOf hc]
      refine .inr ⟨hs.symm.trans kn, ks.trans ?_⟩
      rw [statusFor_eq, statusFor_eq, hact]
    · exact .inr ⟨hn, ks.trans hs⟩
    · simp [hs] at kn

/-- A change of one record that keeps its status, count, causes and details, and of a SUPPLY its status. -/
theorem onRecord {c : IncClass} {f : Incident → Incident} (hf : ∀ i, (f i).status = i.status)
    (hc : c ≠ .supply → ∀ i, (f i).tally = i.tally) (r : Recovery) : r.Calm (r.set c ((r.get c).map f)) where
  stack := stack_set r c _
  others d hd := by
    by_cases hdc : d = c
    · subst hdc
      rw [get_set_same, Option.map_map]
      exact congrArg (Option.map · (r.get d)) (funext (hc hd))
    · rw [get_set_other r _ hdc]
  supply := .inl <| by
    by_cases hdc : IncClass.supply = c
    · subst hdc
      rw [statusOf_set_same, Option.map_map]
      exact congrArg (Option.map · (r.get .supply)) (funext hf)
    · exact statusOf_set_other r _ hdc

end Recovery.Calm

theorem RecoveryOk.calm {r t : Recovery} (hc : r.Calm t) (h : RecoveryOk r) : RecoveryOk t := by
  have hothers : ∀ c, c ≠ .supply → t.statusOf c = r.statusOf c := fun c => hc.statusOf
  rcases hc.supply with hs | ⟨hn, hs⟩
  · refine h.of_statuses (fun c => ?_) hc.stack
    by_cases he : c = .supply
    · rw [he, hs]
    · exact hothers c he
  · cases ha : r.active with
    | none => exact h.opens_alone hn ha (Recovery.Calm.supply_active ha ▸ hs) hothers hc.stack
    | some a => exact h.opens_waiting hn ha (level_le_supply a) (Recovery.Calm.supply_pending ha ▸ hs) hothers hc.stack

end Sys2Proof.Machine
end

section
/-!
What leaves the Incident Table calm: every shared operation that takes no occurrence and closes no record. The Recovery
Controller's own phases are among them; the rest reach the table by the watch over the gate head alone.
-/
namespace Sys2Proof.Machine

/-- From `s` to `u` the Incident Table has been calm. -/
abbrev Calm (s u : State) : Prop := s.rcc.Calm u.rcc

theorem raiseTrayEmpty_calm (t : Tray) (s : State) : Calm s (raiseTrayEmpty t s) := by
  have keeps {u : State} (hk : u.rcc.stack = s.rcc.stack) (ho : ∀ c, c ≠ .supply → u.rcc.get c = s.rcc.get c)
      (hs : u.rcc.statusOf .supply = s.rcc.statusOf .supply ∨
        s.rcc.statusOf .supply = none ∧ u.rcc.statusOf .supply = some (s.rcc.statusFor .supply)) : Calm s u :=
    ⟨hk, fun c hc => by rw [ho c hc], hs⟩
  have others (x : Option Incident) (c : IncClass) (hc : c ≠ .supply) :
      ({ s.rcc with supply := x } : Recovery).get c = s.rcc.get c := get_set_other s.rcc x hc
  unfold raiseTrayEmpty
  split
  next hn => exact keeps rfl (others _) (.inr ⟨congrArg (Option.map _) hn, rfl⟩)
  next i hi =>
    refine keeps rfl (others _) (.inl ?_)
    have hjoin : (joinHold (.tray t) (mergeRecord (trayOccurrence t) i)).status = i.status := by
      unfold joinHold
      split <;> rfl
    exact (congrArg some hjoin).trans (statusOf_of_get (c := .supply) hi).symm

theorem watchGate_calm (before s : State) : Calm s (watchGate before s) := by
  have tested (u : State) : Calm u (trayTest u) := by
    unfold trayTest
    dsimp only
    repeat' split
    · exact .refl _
    · exact raiseTrayEmpty_calm _ u
    · exact .refl _
  have resent (u : State) : (resendTest u).rcc = u.rcc := by
    unfold resendTest
    dsimp only
    repeat' split
    all_goals rfl
  unfold watchGate
  dsimp only
  repeat' split
  · exact .refl _
  · rw [Calm, judgeHead, resent]
    exact tested (s.onOgt Gate.dropMarks)
  · exact .refl _

/-- The withdrawal of an admission is not the Recovery Controller's (R138). -/
@[simp] theorem withdrawAdmission_rcc (s : State) : (withdrawAdmission s).rcc = s.rcc := by
  have returned (r : Sheet) (u : State) : (returnEntry r u).rcc = u.rcc := by
    unfold returnEntry
    dsimp only
    split <;> rfl
  unfold withdrawAdmission
  dsimp only
  repeat' split
  · rfl
  · exact returned _ _
  · rfl

namespace Calm
variable {s u : State}

theorem watchGate (before : State) (h : Calm s u) : Calm s (watchGate before u) := h.trans (watchGate_calm before u)

theorem watched {f : State → State} (h : Calm s (f u)) : Calm s (watched f u) := watchGate u h

theorem foldl {α : Type} {g : State → α → State} (l : List α) (h : Calm s u)
    (hg : ∀ v a, Calm s v → Calm s (g v a)) : Calm s (l.foldl g u) := kept_foldl hg l h

/-! ### The Page Directory -/

theorem loseProtection (t : SetTag) (h : Calm s u) : Calm s (loseProtection t u) := by
  unfold Machine.loseProtection
  repeat' split
  all_goals exact h

theorem discardFull (k : PageKey) (i : Nat) (h : Calm s u) : Calm s (discardFull k i u) := by
  unfold Machine.discardFull reportDiscard
  repeat' split
  all_goals exact h

theorem discardGap (k : PageKey) (i : Nat) (h : Calm s u) : Calm s (discardGap k i u) := by
  unfold Machine.discardGap reportDiscard
  repeat' split
  all_goals exact h

theorem fillWay (k : PageKey) (i : Nat) (h : Calm s u) : Calm s (fillWay k i u) := by
  have hw := watched (f := fun v => v.onPgd fun d => ((d.dropWay i).putWay i (freshLine v k)).touch i) (u := u) h
  unfold Machine.fillWay
  dsimp only
  repeat' split
  · exact hw.loseProtection _
  · exact hw
  · exact hw

theorem takeBlock (k : PageKey) (i index len : Nat) (h : Calm s u) : Calm s (takeBlock k i index len u).1 := by
  have hp : Calm s (displacePool k u) := by
    unfold displacePool
    repeat' split
    · exact watched h
    · exact h
    · exact h
  unfold Machine.takeBlock
  dsimp only
  split
  · exact hp
  · exact watched (f := State.onPgd _) (hp.discardFull k index)

theorem place (k : PageKey) (index : Nat) (final : Bool) (len : Nat) (h : Calm s u) :
    Calm s (place k index final len u).1 := by
  have hl : Calm s (u.onPgd fun d => { d with latch := none }) := h
  unfold Machine.place placeByTable
  repeat' split
  · exact h
  · exact (hl.fillWay k _).takeBlock k _ index len
  · exact hl.discardFull k index
  · exact hl.discardGap k index
  · exact (hl.fillWay k _).takeBlock k _ index len
  · exact hl.discardGap k index
  · exact hl
  · exact hl.takeBlock k _ index len
  · exact discardGap (u := State.onPgd _ _) k index hl
  · exact hl
  · exact hl
  · exact hl

theorem writeCompleted (k : PageKey) (final : Bool) (h : Calm s u) : Calm s (writeCompleted k final u) := by
  unfold Machine.writeCompleted
  repeat' split
  all_goals exact h

theorem claimLine (q : Seq) (k : PageKey) (h : Calm s u) : Calm s (claimLine q k u) := by
  unfold Machine.claimLine
  repeat' split
  all_goals exact h

theorem relockLine (q : Seq) (k : PageKey) (h : Calm s u) : Calm s (relockLine q k u) := by
  unfold Machine.relockLine
  repeat' split
  all_goals exact h

theorem flushWalkStep (h : Calm s u) : Calm s (flushWalkStep u) := by
  have taken (i : Nat) (l : Line) (w : Walk) {v : State} (hv : Calm s v) : Calm s (walkInvalidate i l w v).2 := by
    unfold walkInvalidate
    dsimp only
    repeat' split
    all_goals exact hv
  have walked (is : List Nat) (w : Walk) (t : Option SetTag) (v : State) (hv : Calm s v) :
      Calm s (walkWays is w t v).2.2 := by
    induction is generalizing w t v with
    | nil => exact hv
    | cons i is ih =>
      rcases walkWays_cons i is w t v with ⟨l, _, _, he⟩ | ⟨_, he⟩ <;> rw [he]
      · exact ih _ _ _ (taken i l w hv)
      · exact ih _ _ _ hv
  unfold Machine.flushWalkStep
  split
  next w _ =>
    unfold walkStep
    extract_lets r v x
    have hr : Calm s r.2.2 := walked (List.range' (w.next * Config.ways) Config.ways) w none u h
    have hv : Calm s v := by
      unfold v
      split
      · exact hr.loseProtection _
      · exact hr
    unfold walkEnd
    dsimp only
    repeat' split
    all_goals exact hv
  · exact h

/-! ### The Order Gate and the Sheet Tracker -/

theorem checkDone (j : JobSlot) (h : Calm s u) : Calm s (checkDone j u) := by
  unfold Machine.checkDone
  dsimp only
  split <;> exact h

theorem withdrawAdmission (h : Calm s u) : Calm s (withdrawAdmission u) := by
  rw [Calm, withdrawAdmission_rcc]
  exact h

theorem endSheet (t : Tag) (e : Ending) (h : Calm s u) : Calm s (endSheet t e u) := by
  have reissued (r : Sheet) {v : State} (hv : Calm s v) : Calm s (reissueOrInvalidate e r v) := by
    unfold reissueOrInvalidate
    repeat' split
    all_goals exact hv
  unfold Machine.endSheet
  split
  · exact h
  next r _ => exact ((reissued r (v := clearInterlock t (onJob r.job e.count (dropSheet t u))) h).checkDone _).watchGate _

theorem requestHalt (h : Calm s u) : Calm s (requestHalt u) := by
  unfold Machine.requestHalt
  split <;> exact h

theorem requestResume (h : Calm s u) : Calm s (requestResume u) := by
  unfold Machine.requestResume
  split <;> exact h

/-! ### The Delivery Unit -/

theorem markSuspect (t : Tag) (h : Calm s u) : Calm s (markSuspect t u) := by
  unfold Machine.markSuspect
  repeat' split
  all_goals exact h

theorem removeSettling (t : Tag) (h : Calm s u) : Calm s (removeSettling t u) := by
  unfold Machine.removeSettling
  dsimp only
  repeat' split
  · exact h
  all_goals exact h.endSheet t .removed

theorem leaveB (b : Bin) (h : Calm s u) : Calm s (leaveB b u) := by
  have joined (r : Sheet) {v : State} (hv : Calm s v) : Calm s (joinSet b r v) := by
    unfold joinSet
    dsimp only
    repeat' split
    · exact hv
    · exact hv
    · exact hv
    · exact loseProtection (u := v.onDlu _) _ hv
  unfold Machine.leaveB
  repeat' split
  · exact h
  · exact joined _ (h.endSheet _ .compiled)
  · exact h.endSheet _ .delivered

theorem shiftA (b : Bin) (h : Calm s u) : Calm s (shiftA b u) := by
  unfold Machine.shiftA
  split <;> exact h

theorem advanceEjection (b : Bin) (t : Tag) (h : Calm s u) : Calm s (advanceEjection b t u) := (h.leaveB b).shiftA b

theorem advanceExpiry (b : Bin) (h : Calm s u) : Calm s (advanceExpiry b u) := by
  unfold Machine.advanceExpiry
  dsimp only
  split <;> exact (h.leaveB b).shiftA b

theorem ejectSet (b : Bin) (h : Calm s u) : Calm s (ejectSet b u) := by
  unfold Machine.ejectSet
  repeat' split
  next o _ _ =>
    exact checkDone (u := onJob o.job (fun j => { j with set := j.set - o.count, delivered := j.delivered + o.count }) u)
      o.job h
  · exact h
  · exact h

theorem purgeQueue (h : Calm s u) : Calm s (purgeQueue u).1 := by
  have stage (b : Bin) (st : Stage) {v : State} (hv : Calm s v) : Calm s (purgeStage b st v).1 := by
    unfold purgeStage
    split
    · exact hv.removeSettling _
    · exact hv
  unfold Machine.purgeQueue
  split
  · exact stage _ .a (stage _ .b h)
  · exact h

theorem purgeSet (h : Calm s u) : Calm s (purgeSet u) := by
  unfold Machine.purgeSet
  split
  · exact h
  next o _ =>
    split
    next l _ =>
      exact watched (f := Machine.relockSet ⟨o.job, o.set⟩)
        (h.foldl l (g := fun v p => reissueProtected p v) fun v p hv => watchGate v hv)
    · exact watched (f := Machine.releaseSet ⟨o.job, o.set⟩) (checkDone (u := onJob o.job
        (fun j => { j with set := j.set - o.count, removed := j.removed + o.count }) u) o.job h)

/-! ### The phases of the Recovery Controller -/

/-- A change of one record's phase, hold list or notes. -/
theorem onIncident {c : IncClass} {f : Incident → Incident} (hf : ∀ i, (f i).tally = i.tally) (h : Calm s u) :
    Calm s (onIncident c f u) :=
  h.trans (.onRecord (fun i => congrArg Prod.fst (hf i)) (fun _ => hf) u.rcc)

theorem setPhase (c : IncClass) (p : Phase) (h : Calm s u) : Calm s (setPhase c p u) := h.onIncident fun _ => rfl

theorem coverTimer (n : Option Nat) (h : Calm s u) : Calm s (u.onRcc fun r => { r with coverTimer := n }) :=
  h.trans ⟨rfl, fun c _ => by cases c <;> rfl, .inl rfl⟩

theorem retryTest (m : Misfeed) (h : Calm s u) : Calm s (retryTest m u) := by
  unfold Machine.retryTest
  repeat' split
  · exact h
  · refine onIncident (u := post _ (u.onOgt _)) (fun i => ?_) h
    unfold joinHold
    split <;> rfl
  · exact h

theorem enterClearance (h : Calm s u) : Calm s (enterClearance u) := h.setPhase .jam .clearance

theorem postJamReport (h : Calm s u) : Calm s (postJamReport u) := by
  unfold Machine.postJamReport
  split <;> exact h

theorem resumeClearance (h : Calm s u) : Calm s (resumeClearance u) := h.postJamReport.enterClearance

theorem enterAssess (h : Calm s u) : Calm s (enterAssess u) :=
  resumeClearance (u := assessSheets (Machine.setPhase .jam .assess u)) (h.setPhase .jam .assess)

theorem enterStop (h : Calm s u) : Calm s (enterStop u) := by
  have hs : Calm s (withdrawFrames (Machine.setPhase .jam .stop u)) := h.setPhase .jam .stop
  unfold Machine.enterStop
  dsimp only
  split
  · exact hs.enterAssess
  · exact hs.requestHalt

theorem enterOpen (h : Calm s u) : Calm s (enterOpen u) := ((h.setPhase .interlock .opened).coverTimer none).requestHalt

theorem removeSuspects (l : List (Bin × Stage)) (h : Calm s u) : Calm s (removeSuspects l u).1 := by
  induction l generalizing u with
  | nil => exact h
  | cons x l ih =>
    unfold Machine.removeSuspects
    split
    · exact ih (h.removeSettling _)
    · exact ih h

theorem postSuspectRequests (l : List (Bin × Tag × Seq)) (h : Calm s u) : Calm s (postSuspectRequests l u) := by
  refine h.foldl _ fun v b hv => ?_
  split <;> exact hv

theorem rebuildWork (h : Calm s u) : Calm s (rebuildWork u) := by
  unfold Machine.rebuildWork
  extract_lets x v
  have hv : Calm s v := ((h.setPhase .jam .rebuild).removeSuspects allStages).postSuspectRequests x.2
  refine foldl _ ?_ fun _ e hw => hw.foldl _ fun _ k hx => watched (hx.relockLine e.seq k)
  split
  · unfold purgeCompile
    dsimp only
    split <;> exact hv.purgeQueue.purgeSet
  · exact hv

theorem runoutCompleteReport (h : Calm s u) : Calm s (runoutCompleteReport u) := by
  unfold Machine.runoutCompleteReport
  split
  · exact requestHalt (onIncident (c := .jam) (f := fun i => { i with runoutDone := true }) (fun _ => rfl) h)
  · exact h

theorem checkRunoutComplete (h : Calm s u) : Calm s (checkRunoutComplete u) := by
  unfold Machine.checkRunoutComplete
  split
  · exact h.runoutCompleteReport
  · exact h

theorem markExitSuspects (c : Checkpoint) (h : Calm s u) : Calm s (markExitSuspects c u) := by
  refine h.foldl _ fun v b hv => ?_
  repeat' split
  · exact hv.markSuspect _
  · exact hv
  · exact hv

theorem markLater (b : Bin) (q : Seq) (h : Calm s u) : Calm s (markLater b q u) :=
  h.foldl _ fun _ r hv => hv.markSuspect r.tag

theorem removePass (p : Sheet → Bool) (h : Calm s u) : Calm s (removePass p u) := by
  refine h.foldl _ fun v t hv => ?_
  unfold removeStranded
  dsimp only
  repeat' split
  · exact hv
  · exact hv.endSheet t .removed
  · exact (hv.endSheet t .removed).markLater _ _

theorem orderBins (l : List Bin) (named : List Tag) (h : Calm s u) : Calm s (orderBins l u named).1 := by
  have ordered (b : Bin) (rs : List Sheet) (named : List Tag) (v : State) (hv : Calm s v) :
      Calm s (orderSheets b rs v named).1 := by
    induction rs generalizing v named with
    | nil => exact hv
    | cons r rs ih =>
      unfold orderSheets
      repeat' split
      · exact ih _ _ hv
      · exact ih _ (setDisposition r.tag .purge v) hv
      · exact ih _ _ hv
  induction l generalizing u named with
  | nil => exact h
  | cons b l ih => exact ih _ (ordered b _ _ _ h)

theorem enterRunout (named : List Tag) (h : Calm s u) : Calm s (enterRunout named u) := by
  refine foldl _ ?_ fun _ _ hv => hv
  unfold beginRunout
  split <;> exact onIncident (c := .jam) (f := fun i => { i with phase := .runout, runoutDone := false }) (fun _ => rfl) h

theorem absenceReport (r : Sheet) (b : Bin) (c : Bool) (h : Calm s u) : Calm s (absenceReport r b c u) := by
  unfold Machine.absenceReport
  dsimp only
  split
  · refine markLater _ _ (h.foldl _ fun v t hv => ?_)
    unfold divert
    repeat' split
    all_goals exact hv
  · exact h

/-! ### The rows that leave it calm -/

theorem present (b : Band) (h : Calm s u) : Calm s (present b u).1 := by
  have hp := h.place b.key b.index b.final b.data.length
  unfold Machine.present
  dsimp only
  repeat' split
  · exact h
  · exact hp
  · exact hp

theorem band (h : Calm s u) : Calm s (band u) := by
  unfold Machine.band takeBand
  dsimp only
  repeat' split
  · exact h
  · exact h
  · exact present (u := u.onLi _) _ h
  · exact present (u := u.onLi _) _ h
  · exact h

theorem writeTransferEnd (h : Calm s u) : Calm s (writeTransferEnd u) := by
  have completed (b : Band) (n : Nat) : Calm s (completeWrite b n u) :=
    writeCompleted (u := storeBand b n u) b.key b.final h
  have next {v : State} (hv : Calm s v) : Calm s (nextWrite v) := by
    unfold nextWrite presentWaiting
    dsimp only
    split
    · exact hv
    · exact present (u := v.onCre _) _ hv
  unfold Machine.writeTransferEnd
  split
  · exact watched (next (watched (completed _ _)))
  · exact h

theorem bandoutGiven (h : Calm s u) : Calm s (bandoutGiven u) := by
  unfold Machine.bandoutGiven
  dsimp only
  repeat' split
  all_goals exact h

theorem haltSent (h : Calm s u) : Calm s (haltSent u) := by
  have abandoned (v : State) (hv : Calm s v) : Calm s (abandonReplay v) := by
    unfold abandonReplay unpinAbandoned
    repeat' split
    all_goals exact hv
  unfold Machine.haltSent
  split
  · exact abandoned (State.onCkm _ (u.onLi _)) h
  · exact h

theorem order (h : Calm s u) : Calm s (order u) := by
  have accepted (o : OrderBody) {v : State} (hv : Calm s v) : Calm s (acceptOrder o v) := by
    have hclaimed := foldl (u := onJob o.job (fun b => { b with orq := b.orq + 1 }) (v.onOgt fun g => { g with
        seqCounter := v.ogt.seqCounter + 1, orq := g.orq ++ [⟨v.ogt.seqCounter, o.job, o.snapshot v, false, none, 0⟩] }))
      (g := fun w k => Machine.claimLine v.ogt.seqCounter k w) (o.snapshot v).keys hv fun _ k hw => hw.claimLine _ k
    unfold acceptOrder
    dsimp only
    split <;> exact hclaimed
  unfold Machine.order judgeOrder
  repeat' split
  · exact h
  · exact h
  · exact accepted (v := u.onLi _) _ h
  · exact h

theorem admitGateHead (h : Calm s u) : Calm s (admitGateHead u) := by
  unfold Machine.admitGateHead openAdmission leaveList
  dsimp only
  repeat' split
  all_goals exact h

theorem coverShut (c : Cover) (h : Calm s u) : Calm s (coverShut c u) := by
  have hp : Calm s (popCoverEvent c u) := h
  unfold Machine.coverShut takeShut
  repeat' split
  · exact (hp.setPhase .interlock .shutWait).coverTimer _
  · exact hp
  · exact h

end Calm
end Sys2Proof.Machine
end

section
/-!
Occurrences and closings (R149 to R153): each as the records it leaves, and the order of the Incident Table kept by both.
-/
namespace Sys2Proof.Machine

theorem Calm.refl (s : State) : Calm s s := Recovery.Calm.refl _

/-! ## A record closes (R153) -/

theorem get_coverTimer (r : Recovery) (n : Option Nat) (c : IncClass) : ({ r with coverTimer := n } : Recovery).get c = r.get c := by
  cases c <;> rfl

theorem get_stack (r : Recovery) (l : List IncClass) (c : IncClass) : ({ r with stack := l } : Recovery).get c = r.get c := by
  cases c <;> rfl

/-- The table once the record of a class is CLEAR. -/
def Recovery.cleared (r : Recovery) (c : IncClass) : Recovery :=
  { r.set c none with coverTimer := if c = .interlock then none else r.coverTimer }

theorem get_cleared_same (r : Recovery) (c : IncClass) : (r.cleared c).get c = none := by
  rw [Recovery.cleared, get_coverTimer, get_set_same]

theorem get_cleared_other (r : Recovery) {c d : IncClass} (h : d ≠ c) : (r.cleared c).get d = r.get d := by
  rw [Recovery.cleared, get_coverTimer, get_set_other r none h]

theorem stack_cleared (r : Recovery) (c : IncClass) : (r.cleared c).stack = r.stack := by cases c <;> rfl

theorem clearRecord_eq (c : IncClass) (s : State) : clearRecord c s = { s with rcc := s.rcc.cleared c } := by
  cases c <;> rfl

/-- `s` with the record `i` of a class CLEAR and INCIDENT CLOSED posted. -/
def State.withClosed (c : IncClass) (i : Incident) (next : Option IncClass) (s : State) : State :=
  { s with rcc := s.rcc.cleared c, li := Link.post (.incidentClosed c i.first i.count next) s.li }

theorem closeRecord_clear {c : IncClass} {s : State} (n : Nat) (h : s.rcc.get c = none) : closeRecord n c s = s := by
  cases n with
  | zero => rfl
  | succ n => simp only [closeRecord, h]

section
variable {c : IncClass} {s : State} {i : Incident} (n : Nat) (hi : s.rcc.get c = some i)
include hi

/-- The last record to close. -/
theorem closeRecord_last (hn : (s.rcc.cleared c).choose = none) :
    closeRecord (n + 1) c s = resumePath c (s.withClosed c i none) := by
  simp only [closeRecord, hi, clearRecord_eq, hn]
  rfl

/-- A record closes, and the next acts. -/
theorem closeRecord_next {d : IncClass} (hn : (s.rcc.cleared c).choose = some d) :
    closeRecord (n + 1) c s = resumePath c (activate (closeRecord n) d (s.withClosed c i (some d))) := by
  simp only [closeRecord, hi, clearRecord_eq, hn]
  rfl

end

@[simp] theorem resumePath_rcc (c : IncClass) (s : State) : (resumePath c s).rcc = s.rcc := by
  unfold resumePath requestResume
  repeat' split
  all_goals rfl

/-- The table once the record of a class has become ACTIVE: its frame, if it has one, has left the stack. -/
def Recovery.activated (d : IncClass) (r : Recovery) : Recovery :=
  { r.set d ((r.get d).map fun i => { i with status := .active }) with
    stack := if r.statusOf d = some .pending then r.stack else r.stack.tail }

theorem activate_pending (cl : IncClass → State → State) {d : IncClass} {s : State} (h : s.rcc.statusOf d = some .pending) :
    activate cl d s = startPhase cl d { s with rcc := s.rcc.activated d } := by
  have hr : setStatus d .active s = { s with rcc := s.rcc.activated d } := by
    simp only [Recovery.activated, h, if_true]
    cases d <;> rfl
  rw [activate, if_pos h, hr]

theorem activate_resumes (cl : IncClass → State → State) {d : IncClass} {s : State} (h : s.rcc.statusOf d ≠ some .pending) :
    activate cl d s = resumePhase cl d { s with rcc := s.rcc.activated d } := by
  have hr : setStatus d .active (s.onRcc fun r => { r with stack := r.stack.tail }) =
      { s with rcc := s.rcc.activated d } := by
    simp only [Recovery.activated, h, if_false]
    cases d <;> rfl
  rw [activate, if_neg h, hr]

theorem statusOf_activated_same {d : IncClass} {r : Recovery} (h : r.statusOf d ≠ none) :
    (r.activated d).statusOf d = some .active := by
  obtain ⟨i, hi⟩ := Option.ne_none_iff_exists'.1 (mt statusOf_eq_none.2 h)
  rw [Recovery.statusOf, Recovery.activated, get_stack, get_set_same, hi]
  rfl

theorem get_activated_other {c d : IncClass} (r : Recovery) (h : c ≠ d) : (r.activated d).get c = r.get c := by
  rw [Recovery.activated, get_stack, get_set_other r _ h]

/-! ### The table between a close and the next record's start -/

namespace RecoveryOk
variable {r : Recovery} {c d : IncClass} (h : RecoveryOk r) (hc : r.statusOf c = some .active)
include h hc

theorem cleared : (r.cleared c).Between :=
  h.closes hc (statusOf_eq_none.2 (get_cleared_same r c)) (fun _ hd => congrArg (Option.map _) (get_cleared_other r hd))
    (stack_cleared r c)

variable (hn : (r.cleared c).choose = some d)
include hn

/-- The record chosen next is open. -/
theorem chosen_open : (r.cleared c).statusOf d ≠ none := by
  rcases choose_eq_some hn with ⟨hp, _⟩ | ⟨ts, hs, _⟩
  · simp [((firstPending_iff _ d).1 hp).1]
  · simp [((h.cleared hc).frames d).1 (by simp [hs])]

theorem chosen_activated : RecoveryOk ((r.cleared c).activated d) :=
  (h.cleared hc).activates hn (statusOf_activated_same (h.chosen_open hc hn))
    (fun _ he => congrArg (Option.map _) (get_activated_other _ he)) rfl

end RecoveryOk

/-! ### What a close keeps -/

/-- A property of the table that calm leaves and that closing an ACTIVE record keeps. -/
structure ClosesKeep (P : Recovery → Prop) (cl : IncClass → State → State) : Prop where
  calm : ∀ {r t : Recovery}, r.Calm t → P r → P t
  close : ∀ (c : IncClass) (v : State), v.rcc.statusOf c = some .active → P v.rcc → P (cl c v).rcc

namespace ClosesKeep
variable {P : Recovery → Prop} {cl : IncClass → State → State} (k : ClosesKeep P cl) {u : State} (h : P u.rcc)
include k h

/-- An ACTIVE record closes after something calm. -/
theorem closes {c : IncClass} {v : State} (ha : u.rcc.statusOf c = some .active) (hc : Calm u v) : P (cl c v).rcc :=
  k.close c v (hc.active c ha) (k.calm hc h)

theorem testSupply (ha : u.rcc.statusOf .supply = some .active) : P (testSupply cl u).rcc := by
  unfold Machine.testSupply
  split
  · exact h
  · exact k.close _ _ ha h

theorem testTrayHold (ha : u.rcc.statusOf .misfeed = some .active) : P (testTrayHold cl u).rcc := by
  have hc : Calm u (onIncident .misfeed (fun i => { i with phase := .trayHold, hold := i.hold.filter (stillHeld u) }) u) :=
    (Calm.refl u).onIncident fun _ => rfl
  unfold Machine.testTrayHold
  dsimp only
  split
  · exact k.closes h ha hc
  · exact k.calm hc h

theorem enterRetry (ha : u.rcc.statusOf .misfeed = some .active) : P (enterRetry cl u).rcc := by
  unfold Machine.enterRetry
  extract_lets v w
  have hv : Calm u v := by
    unfold v
    repeat' split
    · exact .refl u
    · exact (Calm.refl u).retryTest _
    · exact .refl u
  have hw : Calm u w := hv.onIncident fun _ => rfl
  split
  · exact k.closes h ha hw
  · exact k.testTrayHold (k.calm hw h) (hw.active _ ha)

theorem startPhase {c : IncClass} (ha : u.rcc.statusOf c = some .active) : P (startPhase cl c u).rcc := by
  cases c with
  | interlock => exact k.calm (Calm.refl u).enterOpen h
  | jam => exact k.calm (Calm.refl u).enterStop h
  | misfeed => exact k.enterRetry h ha
  | supply => exact k.testSupply h ha

theorem resumeJam (p : Phase) (ha : u.rcc.statusOf .jam = some .active) : P (resumeJam cl p u).rcc := by
  cases p with
  | stop => exact k.calm (Calm.refl u).enterStop h
  | assess => exact k.calm (Calm.refl u).enterAssess h
  | clearance | dispose | runout => exact k.calm (Calm.refl u).resumeClearance h
  | rebuild => exact k.closes h ha (Calm.refl u).rebuildWork
  | opened | shutWait | retry | trayHold | hold => exact h

theorem resumePhase {c : IncClass} (ha : u.rcc.statusOf c = some .active) : P (resumePhase cl c u).rcc := by
  cases c with
  | interlock => exact k.calm (Calm.refl u).enterOpen h
  | jam => exact k.resumeJam h _ ha
  | misfeed =>
    unfold Machine.resumePhase resumeMisfeed
    dsimp only
    repeat' split
    · exact k.testTrayHold h ha
    · exact k.enterRetry h ha
    · exact k.testTrayHold h ha
  | supply => exact k.testSupply h ha

omit h in
theorem activate {d : IncClass} (hd : u.rcc.statusOf d ≠ none) (h : P (u.rcc.activated d)) : P (activate cl d u).rcc := by
  have ha := statusOf_activated_same hd
  by_cases hp : u.rcc.statusOf d = some .pending
  · rw [activate_pending cl hp]
    exact k.startPhase (u := { u with rcc := u.rcc.activated d }) h ha
  · rw [activate_resumes cl hp]
    exact k.resumePhase (u := { u with rcc := u.rcc.activated d }) h ha

end ClosesKeep

/-- The close of the ACTIVE record keeps the table in order, whatever the bound on the closings in a row, and beside the order
what calm, a record's clearing and its becoming ACTIVE keep. -/
theorem closeRecord_keeps {Q : Recovery → Prop} (calm : ∀ {r t : Recovery}, r.Calm t → Q r → Q t)
    (cleared : ∀ r c, Q r → Q (r.cleared c)) (activated : ∀ r d, r.statusOf d ≠ none → Q r → Q (r.activated d)) (n : Nat) :
    ClosesKeep (fun r => RecoveryOk r ∧ Q r) (closeRecord n) := by
  have hcalm {r t : Recovery} (hc : r.Calm t) (h : RecoveryOk r ∧ Q r) : RecoveryOk t ∧ Q t := ⟨h.1.calm hc, calm hc h.2⟩
  refine ⟨hcalm, ?_⟩
  induction n with
  | zero => exact fun _ _ _ h => h
  | succ n ih =>
    rintro c s hc ⟨h, hq⟩
    obtain ⟨i, hi, _⟩ := get_of_statusOf hc
    cases hn : (s.rcc.cleared c).choose with
    | none =>
      rw [closeRecord_last n hi hn, resumePath_rcc]
      exact ⟨(h.cleared hc).rests hn, cleared _ c hq⟩
    | some d =>
      have hd := h.chosen_open hc hn
      rw [closeRecord_next n hi hn, resumePath_rcc]
      exact ClosesKeep.activate ⟨hcalm, ih⟩ (u := s.withClosed c i (some d)) hd
        ⟨h.chosen_activated hc hn, activated _ d hd (cleared _ c hq)⟩

theorem close_keeps : ClosesKeep RecoveryOk close := by
  have h := closeRecord_keeps (Q := fun _ => True) (fun _ => id) (fun _ _ => id) (fun _ _ _ => id) 4
  exact ⟨.calm, fun c v hc hv => (h.close c v hc ⟨hv, trivial⟩).1⟩

/-- While records close, one that is CLEAR stays so, but for the SUPPLY. -/
theorem closeRecord_keeps_clear {c : IncClass} (hc : c ≠ .supply) (n : Nat) :
    ClosesKeep (fun r => RecoveryOk r ∧ r.get c = none) (closeRecord n) := by
  refine closeRecord_keeps (fun ht hr => ?_) (fun r e hr => ?_) (fun r d hd hr => ?_) n
  · rw [← statusOf_eq_none, ht.statusOf hc, statusOf_eq_none]
    exact hr
  · by_cases he : c = e
    · rw [he, get_cleared_same]
    · rw [get_cleared_other r he, hr]
  · have hcd : c ≠ d := fun he => hd (statusOf_eq_none.2 (he ▸ hr))
    rw [get_activated_other r hcd, hr]

/-- The close of the ACTIVE record leaves it CLEAR (R153). -/
theorem close_clears {s : State} (h : RecoveryOk s.rcc) {c : IncClass} {i : Incident} (hi : s.rcc.get c = some i)
    (ha : i.status = .active) : (close c s).rcc.get c = none := by
  have hc : s.rcc.statusOf c = some .active := ha ▸ statusOf_of_get hi
  have hclear := get_cleared_same s.rcc c
  unfold close
  cases hn : (s.rcc.cleared c).choose with
  | none =>
    rw [closeRecord_last 3 hi hn, resumePath_rcc]
    exact hclear
  | some d =>
    have hd := h.chosen_open hc hn
    have hdc : d ≠ c := fun he => hd (statusOf_eq_none.2 (he ▸ hclear))
    have hlt : c.level < d.level := by
      refine h.active_urgent hc (fun hs => hd ?_) hdc
      rw [statusOf_eq_none, get_cleared_other _ hdc, statusOf_eq_none.1 hs]
    have hsup : c ≠ .supply := by
      rintro rfl
      exact level_le_supply d hlt
    rw [closeRecord_next 3 hi hn, resumePath_rcc]
    refine ((closeRecord_keeps_clear hsup 3).activate (u := s.withClosed c i (some d)) hd
      ⟨h.chosen_activated hc hn, ?_⟩).2
    rw [get_activated_other _ hdc.symm]
    exact hclear

end Sys2Proof.Machine
end

section
/-!
An occurrence is taken (R149 to R151): the record it opens or merges into, and the order of the Incident Table kept by every
report to the Recovery Controller.
-/
namespace Sys2Proof.Machine

/-! ## A record opens (R150) -/

/-- `s` with the record of the occurrence open in a status, and INCIDENT OPENED posted. -/
def State.opened (o : Occurrence) (st : IncStatus) (victim : Option IncClass) (s : State) : State :=
  { s with
    li := Link.post (.incidentOpened o.cls o.detail.cause o.detail st victim) s.li
    rcc := s.rcc.set o.cls (some (fillRecord o st)) }

/-- `s` with the record `j` of a class PREEMPTED: its frame is on the stack, and a JAM in RUNOUT has withdrawn its frames. -/
def State.withPreempted (a : IncClass) (j : Incident) (s : State) : State :=
  { s with
    li := if a = .jam ∧ j.phase = .runout then { s.li with runoutPlace := none, divertQueue := [] } else s.li
    rcc := { s.rcc.set a (some { j with status := .preempted }) with stack := a :: s.rcc.stack } }

theorem onIncident_eq {c : IncClass} {i : Incident} {s : State} (h : s.rcc.get c = some i) (f : Incident → Incident) :
    onIncident c f s = { s with rcc := s.rcc.set c (some (f i)) } := by
  simp only [onIncident, State.onRcc, h, Option.map_some]

theorem preempt_eq {a : IncClass} {j : Incident} {s : State} (hj : s.rcc.get a = some j) (ha : j.status = .active) :
    preempt a s = s.withPreempted a j := by
  have hruns : (s.rcc.activeIn .jam .runout && decide (a = .jam)) = decide (a = .jam ∧ j.phase = .runout) := by
    by_cases hjam : a = .jam
    · subst hjam; simp [Recovery.activeIn, hj, ha]
    · simp [hjam]
  unfold preempt State.withPreempted
  simp only [hruns, decide_eq_true_eq]
  split
  · rw [setStatus, onIncident_eq (s := withdrawFrames s) hj]
    cases a <;> rfl
  · rw [setStatus, onIncident_eq hj]
    cases a <;> rfl

section
variable {o : Occurrence} {s : State}

theorem placeRecord_alone (ha : s.rcc.active = none) : placeRecord o s = s.opened o .active none := by
  simp only [placeRecord, Recovery.statusFor, Recovery.preemptedBy, ha, Option.filter_none]
  rfl

section
variable {a : IncClass} (ha : s.rcc.active = some a)
include ha

theorem placeRecord_waits (hlt : ¬o.cls.level < a.level) : placeRecord o s = s.opened o .pending none := by
  simp only [placeRecord, Recovery.statusFor, Recovery.preemptedBy, ha, Option.filter_some, hlt, decide_false, if_false,
    Bool.false_eq_true]
  rfl

theorem placeRecord_preempts {j : Incident} (hj : s.rcc.get a = some j) (hlt : o.cls.level < a.level) :
    placeRecord o s = (s.withPreempted a j).opened o .active (some a) := by
  have hact : j.status = .active := by
    have hs := status_of_active ha
    rw [statusOf_of_get hj, Option.some.injEq] at hs
    exact hs
  simp only [placeRecord, Recovery.statusFor, Recovery.preemptedBy, ha, Option.filter_some, hlt, decide_true, if_true,
    preempt_eq hj hact]
  rfl

end

theorem statusFor_none (ha : s.rcc.active = none) (c : IncClass) : s.rcc.statusFor c = .active := by
  simp only [Recovery.statusFor, ha]

theorem statusFor_some {a : IncClass} (ha : s.rcc.active = some a) (c : IncClass) :
    s.rcc.statusFor c = if c.level < a.level then .active else .pending := by
  simp only [Recovery.statusFor, ha]

/-- In RUNNING an occurrence of a class that is CLEAR opens its record. -/
theorem raise_opens (hm : s.pds.mode = .running) (hc : s.rcc.get o.cls = none) : raise o s = openRecord o s := by
  simp only [raise, hm, reduceCtorEq, if_false, hc]

/-- In RUNNING an occurrence of a class that is open merges. -/
theorem raise_merges {i : Incident} (hm : s.pds.mode = .running) (hi : s.rcc.get o.cls = some i) :
    raise o s = mergeOccurrence o i s := by
  simp only [raise, hm, reduceCtorEq, if_false, hi]

theorem reportOpening_calm (o : Occurrence) (before s : State) : Calm s (reportOpening o before s) := by
  unfold reportOpening
  split
  · exact (Calm.refl s).withdrawAdmission.watchGate before
  · exact Calm.refl s

/-- The record placed has the status R150 gives it. -/
theorem placeRecord_statusOf (o : Occurrence) (s : State) :
    (placeRecord o s).rcc.statusOf o.cls = some (s.rcc.statusFor o.cls) := by
  unfold placeRecord
  dsimp only
  split <;> exact statusOf_set_same _ _ _

/-- Placing a record keeps the table in order. -/
theorem placeRecord_ok (h : RecoveryOk s.rcc) (hc : s.rcc.get o.cls = none) : RecoveryOk (placeRecord o s).rcc := by
  have hclear := statusOf_eq_none.2 hc
  cases ha : s.rcc.active with
  | none =>
    rw [placeRecord_alone ha]
    exact h.opens_alone hclear ha (statusOf_set_same _ _ _) (fun _ hd => statusOf_set_other _ _ hd) (stack_set _ _ _)
  | some a =>
    by_cases hlt : o.cls.level < a.level
    · obtain ⟨j, hj, _⟩ := get_of_statusOf (status_of_active ha)
      have hac : a ≠ o.cls := fun he => Nat.lt_irrefl _ (he ▸ hlt)
      rw [placeRecord_preempts ha hj hlt]
      refine h.opens_preempting hclear ha hlt (statusOf_set_same _ _ _) ?_ (fun d hd hda => ?_) (stack_set _ _ _)
      · refine (statusOf_set_other _ _ hac).trans ?_
        rw [Recovery.statusOf, State.withPreempted, get_stack, get_set_same]
        rfl
      · refine (statusOf_set_other _ _ hd).trans ?_
        rw [Recovery.statusOf, State.withPreempted, get_stack, get_set_other _ _ hda]
        rfl
    · rw [placeRecord_waits ha hlt]
      exact h.opens_waiting hclear ha hlt (statusOf_set_same _ _ _) (fun _ hd => statusOf_set_other _ _ hd)
        (stack_set _ _ _)

end

/-! ## The order of the table kept -/

theorem status_of_activeIn {r : Recovery} {c : IncClass} {p : Phase} (h : r.activeIn c p = true) :
    r.statusOf c = some .active := by
  obtain ⟨i, hi, ha, _⟩ := (activeIn_iff r c p).1 h
  exact ha ▸ statusOf_of_get hi

/-- The Incident Table and the Recovery Stack are in order. -/
abbrev RecoveryInOrder (s : State) : Prop := RecoveryOk s.rcc

namespace RecoveryInOrder
variable {s u : State}

theorem calm (h : RecoveryInOrder s) (hc : Calm s u) : RecoveryInOrder u := RecoveryOk.calm hc h

theorem openRecord {o : Occurrence} (h : RecoveryInOrder s) (hc : s.rcc.get o.cls = none) :
    RecoveryInOrder (openRecord o s) := by
  have hr := reportOpening_calm o s (placeRecord o s)
  have ho : RecoveryInOrder (reportOpening o s (placeRecord o s)) := (placeRecord_ok h hc).calm hr
  unfold Machine.openRecord
  dsimp only
  split
  next ha => exact close_keeps.startPhase ho (hr.active _ (ha ▸ placeRecord_statusOf o s))
  · exact ho

theorem mergeSupply (o : Occurrence) {st : IncStatus} (h : RecoveryInOrder s) (hs : s.rcc.statusOf .supply = some st) :
    RecoveryInOrder (mergeSupply o st s) := by
  have joins (x : Obj) (i : Incident) : (joinHold x i).tally = i.tally := by
    unfold joinHold
    split <;> rfl
  unfold Machine.mergeSupply
  extract_lets v
  have hv : Calm s v := by
    unfold v
    split
    · exact (Calm.refl s).onIncident (joins _)
    · exact .refl s
  split
  next ha => exact close_keeps.testSupply (h.calm hv) (hv.active _ (ha ▸ hs))
  · exact h.calm hv

theorem mergeOccurrence {o : Occurrence} {i : Incident} (h : RecoveryInOrder s) (hi : s.rcc.get o.cls = some i) :
    RecoveryInOrder (mergeOccurrence o i s) := by
  have hm : RecoveryInOrder (onIncident o.cls (mergeRecord o) s) := by
    refine h.of_statuses (fun c => ?_) (stack_set _ _ _)
    by_cases hc : c = o.cls
    · rw [hc, statusOf_of_get hi]
      exact (statusOf_set_same _ _ _).trans (congrArg (Option.map _ ∘ Option.map _) hi)
    · exact statusOf_set_other _ _ hc
  have hs : (onIncident o.cls (mergeRecord o) s).rcc.statusOf o.cls = some i.status :=
    (statusOf_set_same _ _ _).trans (congrArg (Option.map _ ∘ Option.map _) hi)
  unfold Machine.mergeOccurrence
  dsimp only
  split
  · exact hm.calm (Calm.refl _).enterOpen
  · unfold mergeJam
    split
    · exact hm.calm (Calm.refl _).enterStop
    · exact hm.calm ((Calm.refl _).setPhase .jam .stop)
    · exact hm
  · split
    · exact hm.calm ((Calm.refl _).retryTest _)
    · exact hm
  next hcls => exact mergeSupply o hm (hcls ▸ hs)

/-- Taking an occurrence. -/
theorem raise (o : Occurrence) (h : RecoveryInOrder s) : RecoveryInOrder (raise o s) := by
  unfold Machine.raise
  repeat' split
  · exact h
  next hc => exact h.openRecord hc
  next hi => exact h.mergeOccurrence hi

theorem raiseAt (c : Cause) (k : Checkpoint) (t : Option Tag) (h : RecoveryInOrder s) :
    RecoveryInOrder (raiseAt c k t s) := by
  unfold Machine.raiseAt
  split
  · exact raise _ (h.calm ((Calm.refl s).markExitSuspects k))
  · exact h.raise _

/-! ### Reports (R154) -/

theorem supplyReport (h : RecoveryInOrder s) : RecoveryInOrder (supplyReport s) := by
  unfold Machine.supplyReport
  split
  next ha => exact close_keeps.testSupply h (status_of_activeIn ha)
  · exact h

theorem trayReadyReport (h : RecoveryInOrder s) : RecoveryInOrder (trayReadyReport s) := by
  unfold Machine.trayReadyReport
  split
  next ha => exact close_keeps.testTrayHold h (status_of_activeIn ha)
  · exact h

theorem haltedReport (h : RecoveryInOrder s) : RecoveryInOrder (haltedReport s) := by
  unfold Machine.haltedReport
  repeat' split
  · exact h.calm (Calm.refl s).enterAssess
  next hr =>
    have ha : s.rcc.activeIn .jam .runout = true := (Bool.and_eq_true_iff.1 hr).1
    exact close_keeps.closes h (status_of_activeIn ha) (Calm.refl s).rebuildWork
  · exact h

/-- DISPOSE of an ACTIVE JAM, and the REBUILD it may lead to. -/
theorem enterDispose (h : RecoveryInOrder s) (ha : s.rcc.statusOf .jam = some .active) :
    RecoveryInOrder (enterDispose s) := by
  unfold Machine.enterDispose
  extract_lets v x w y z
  have hw : Calm s w := ((((Calm.refl s).setPhase .jam .dispose).removePass _).removeSuspects allStages).removePass _
  have hz : Calm s z := (hw.orderBins (List.finRange 6) []).postSuspectRequests _
  split
  · exact h.calm (hz.enterRunout _)
  · exact close_keeps.closes h ha hz.rebuildWork

end RecoveryInOrder
end Sys2Proof.Machine
end

section
/-!
The Incident Table and the Recovery Stack in order (R148, R152, R153): kept by every row of the table.
-/
namespace Sys2Proof.Machine

namespace RecoveryInOrder
variable {s : State}

/-! ### Replays -/

theorem startPending (h : RecoveryInOrder s) : RecoveryInOrder (startPending s) := by
  unfold Machine.startPending tryReplay
  repeat' split
  · exact h
  · exact h
  · exact raise (s := s.onCre _) _ h

theorem call (t : Tag) (side : Side) (h : RecoveryInOrder s) : RecoveryInOrder (call t side s) := by
  have tried (c : CallReq) : RecoveryInOrder (tryReplay c s) := by
    unfold tryReplay
    split
    · exact h
    · exact h.raise _
  have handed (c : CallReq) : RecoveryInOrder (handCall c s) := by
    unfold handCall startReplay
    dsimp only
    repeat' split
    · exact (tried c).startPending
    · exact tried c
    · exact h.raise _
    · exact h
  unfold Machine.call
  repeat' split
  · exact h
  · exact handed _
  · exact h.raise _

theorem readTransferEnd (h : RecoveryInOrder s) : RecoveryInOrder (readTransferEnd s) := by
  have streamed (c : CallReq) (chain : List Nat) (n : Nat) : RecoveryInOrder (readEndStreaming c chain n s) := by
    unfold readEndStreaming
    dsimp only
    split <;> exact h
  unfold Machine.readTransferEnd
  repeat' split
  · exact streamed _ _ _
  · exact startPending (s := State.onCre _ (boundary _ _ s)) h
  · exact h
  · exact h

theorem bandoutSent (h : RecoveryInOrder s) : RecoveryInOrder (bandoutSent s) := by
  have lined (k : PageKey) (v : State) (hv : RecoveryInOrder v) : RecoveryInOrder (imagingDoneLine k v) := by
    unfold imagingDoneLine
    dsimp only
    repeat' split
    all_goals exact hv
  have done (c : CallReq) {v : State} (hv : RecoveryInOrder v) : RecoveryInOrder (imagingDone c v) := by
    have hw : RecoveryInOrder (watched (imagingDoneLine c.key) v) := (lined c.key v hv).calm (watchGate_calm v _)
    have hs : RecoveryInOrder (imagingDoneSheet c.tag c.side (watched (imagingDoneLine c.key) v)) := by
      unfold imagingDoneSheet
      repeat' split
      all_goals exact hw
    exact startPending (s := State.onCre _ (imagingDoneSheet c.tag c.side _)) hs
  unfold Machine.bandoutSent
  dsimp only
  repeat' split
  · exact done (v := s.onLi _) _ h
  · exact h
  · exact h

/-! ### The engine's status and the reception of frames -/

theorem setEmpty (t : Tray) (v : Bool) (h : RecoveryInOrder s) : RecoveryInOrder (setEmpty t v s) := by
  unfold Machine.setEmpty
  dsimp only
  split
  · exact h
  · exact supplyReport (s := setTrayFlags t _ s) h

theorem setFull (b : Bin) (v : Bool) (h : RecoveryInOrder s) : RecoveryInOrder (setFull b v s) := by
  unfold Machine.setFull
  dsimp only
  split
  · exact h
  · exact supplyReport (s := onBin b _ s) h

theorem readBinFull (b : Bin) (h : RecoveryInOrder s) : RecoveryInOrder (readBinFull b s) := by
  have hw : RecoveryInOrder (watched (Machine.setFull b true) s) := (h.setFull b true).calm (watchGate_calm s _)
  have marked (st : Stage) {v : State} : Calm v (markStage b st v) := by
    unfold markStage
    split
    · exact (Calm.refl v).markSuspect _
    · exact Calm.refl v
  have hf : RecoveryInOrder (binFault b (watched (Machine.setFull b true) s)) := by
    unfold binFault
    split
    · exact hw
    · exact raise _ ((hw.calm (marked .a)).calm (marked .b))
  unfold Machine.readBinFull
  dsimp only
  split
  · exact hf.raise _
  · exact hw

theorem readCompileFault (b : Bin) (h : RecoveryInOrder s) : RecoveryInOrder (readCompileFault b s) := by
  unfold Machine.readCompileFault
  split
  · exact h.raise _
  · exact h

theorem receive (p : Port) (bytes : List Byte) (h : RecoveryInOrder s) : RecoveryInOrder (receive p bytes s) := by
  have hread (x : Status) : RecoveryInOrder (readStatusFrame x s) := by
    cases x with
    | trayEmpty t => exact h.setEmpty t true
    | trayFilled t => exact h.setEmpty t false
    | binFull b => exact h.readBinFull b
    | binCleared b => exact h.setFull b false
    | setEjected b => exact h.calm ((Calm.refl s).ejectSet b)
    | compileFault b => exact h.readCompileFault b
    | engineFault code => exact h.raise _
  unfold Machine.receive goodFrame engstat
  repeat' split
  · exact h
  · exact h
  · exact h
  · exact h.call _ _
  · exact hread _
  · exact h

theorem engstatUnread (body : List Byte) (h : RecoveryInOrder s) : RecoveryInOrder (engstatUnread body s) := by
  unfold Machine.engstatUnread
  split <;> exact h

theorem engcmd (h : RecoveryInOrder s) : RecoveryInOrder (engcmd s) := by
  unfold Machine.engcmd
  repeat' split
  all_goals exact h

theorem uFrameSent (h : RecoveryInOrder s) : RecoveryInOrder (uFrameSent s) := by
  unfold Machine.uFrameSent
  split <;> exact h

theorem eFrameSent (h : RecoveryInOrder s) : RecoveryInOrder (eFrameSent s) := by
  unfold Machine.eFrameSent
  split <;> exact h

/-! ### Sensing and time -/

theorem countAdvance (h : RecoveryInOrder s) : RecoveryInOrder (countAdvance s) := by
  unfold Machine.countAdvance
  split <;> exact h

theorem pathStill (h : RecoveryInOrder s) : RecoveryInOrder (pathStill s) := by
  have completed {v : State} (hv : RecoveryInOrder v) : RecoveryInOrder (completeHalt v) := by
    have hw := hv.calm (Calm.watched (u := v)
      (f := State.onStk fun k => { k with path := .halted, sheets := k.sheets.map Sheet.strand }) (Calm.refl v))
    unfold completeHalt
    dsimp only
    split
    · exact haltedReport (hw.raise _)
    · exact haltedReport hw
  unfold Machine.pathStill
  dsimp only
  repeat' split
  · exact completed (v := s.onCkm _) h
  · exact h
  · exact h

theorem coverOpen (c : Cover) (first : Bool) (h : RecoveryInOrder s) : RecoveryInOrder (coverOpen c first s) := by
  have hp : RecoveryInOrder (popCoverEvent c s) := h
  have stranded {v : State} (hv : RecoveryInOrder v) : RecoveryInOrder (strandOpen v) := by
    unfold strandOpen
    split
    · exact hv.raise _
    · exact hv
  unfold Machine.coverOpen
  dsimp only
  repeat' split
  · exact (stranded hp).raise _
  · exact stranded (hp.raise _)
  · exact h

theorem coverSettleExpiry (h : RecoveryInOrder s) : RecoveryInOrder (coverSettleExpiry s) := by
  unfold Machine.coverSettleExpiry
  split
  next ha => exact close_keeps.close .interlock s (status_of_activeIn ha.2) h
  · exact h

/-! ### Edges -/

theorem leadEdge (c : Checkpoint) (h : RecoveryInOrder s) : RecoveryInOrder (leadEdge c s) := by
  have faulty (faults : Bool) (cause : Cause) (k : Checkpoint) (t : Option Tag) {v : State} (hv : RecoveryInOrder v) :
      RecoveryInOrder (if faults then Machine.raiseAt cause k t v else v) := by
    split
    · exact hv.raiseAt _ _ _
    · exact hv
  have matched (faults : Bool) (n : Count) {v : State} (hv : RecoveryInOrder v) :
      RecoveryInOrder (matchLead faults c n v) := by
    unfold matchLead
    split
    · exact faulty _ _ _ _ hv
    · split
      · exact faulty _ _ _ _ hv
      · split
        · unfold matchSheet
          dsimp only
          split
          · exact faulty _ _ _ _ hv
          · split <;> exact hv
        · exact faulty _ _ _ _ hv
  have hp : RecoveryInOrder (popEdge c true s) := h
  unfold Machine.leadEdge
  dsimp only
  repeat' split
  · exact hp
  · exact matched _ _ hp
  · exact h
  · exact h

theorem failJoin (b : Bin) (x : Sheet) (h : RecoveryInOrder s) : RecoveryInOrder (failJoin b x s) :=
  raise _ (h.calm ((Calm.refl s).markSuspect x.tag))

theorem exitSheet (c : Checkpoint) (r : Sheet) (h : RecoveryInOrder s) : RecoveryInOrder (exitSheet c r s) := by
  have hc : RecoveryInOrder (clearOccupied r.tag s) := h
  have handed {v : State} (hv : RecoveryInOrder v) : RecoveryInOrder (handOver c r v) := by
    unfold handOver
    extract_lets b w
    have hw : RecoveryInOrder w := by
      unfold w
      split
      · exact hv.failJoin _ _
      · exact hv
    split
    · exact hw.calm ((Calm.refl w).advanceEjection _ _)
    · exact hw.raise _
  unfold Machine.exitSheet
  dsimp only
  repeat' split
  · exact hc.raiseAt _ _ _
  · exact hc.calm (Calm.checkRunoutComplete (u := removeAtExit _ _) ((Calm.refl _).endSheet _ _))
  · exact (handed hc).calm (Calm.refl _).checkRunoutComplete

theorem trailEdge (c : Checkpoint) (h : RecoveryInOrder s) : RecoveryInOrder (trailEdge c s) := by
  have taken (faults : Bool) (n : Count) {v : State} (hv : RecoveryInOrder v) : RecoveryInOrder (takeTrail faults c n v) := by
    unfold takeTrail releaseEntry purgeSheet
    dsimp only
    split
    · next r _ =>
      have hu : RecoveryInOrder (updSheet r.tag (Sheet.trail c n) v) := hv
      repeat' split
      · exact calm (s := clearOccupied r.tag (updSheet r.tag (Sheet.trail c n) v)) hu
          ((Calm.refl _).endSheet _ _).checkRunoutComplete
      · exact hu.exitSheet c _
      · exact hu
      · exact hu
    · split
      · exact hv.raiseAt _ _ _
      · exact hv
  have hp : RecoveryInOrder (popEdge c false s) := h
  unfold Machine.trailEdge
  dsimp only
  repeat' split
  · exact hp
  · exact taken _ _ hp
  · exact h
  · exact h

/-! ### Deadlines and the settle timer -/

theorem leadWindowExpiry (h : RecoveryInOrder s) : RecoveryInOrder (leadWindowExpiry s) := by
  have hp : RecoveryInOrder (popDue s) := h
  unfold Machine.leadWindowExpiry leadExpired misfeed
  repeat' split
  · exact raise _ (hp.calm ((Calm.refl _).endSheet _ _))
  · exact hp.raiseAt _ _ _
  · exact hp
  · exact h

theorem trailDeadlineExpiry (h : RecoveryInOrder s) : RecoveryInOrder (trailDeadlineExpiry s) := by
  have hp : RecoveryInOrder (popDue s) := h
  unfold Machine.trailDeadlineExpiry trailExpired
  repeat' split
  · exact hp.raiseAt _ _ _
  · exact hp
  · exact h

theorem runoutDeadlineExpiry (h : RecoveryInOrder s) : RecoveryInOrder (runoutDeadlineExpiry s) := by
  have hp : RecoveryInOrder (popDue s) := h
  unfold Machine.runoutDeadlineExpiry runoutExpired
  repeat' split
  · exact hp.calm (((Calm.refl _).endSheet _ _).absenceReport _ _ _).checkRunoutComplete
  · exact hp
  · exact h

theorem settleTimerExpiry (b : Bin) (h : RecoveryInOrder s) : RecoveryInOrder (settleTimerExpiry b s) := by
  unfold Machine.settleTimerExpiry
  repeat' split
  · exact h.failJoin _ _
  · exact h.calm ((Calm.refl s).advanceExpiry b)
  · exact h

/-! ### Requests -/

theorem takeRequest (wanted : Request → Bool) {act : Request → State → State} (ha : RowClosed.Owner RecoveryInOrder act)
    (h : RecoveryInOrder s) : RecoveryInOrder (takeRequest wanted act s) := by
  unfold Machine.takeRequest
  dsimp only
  repeat' split
  · exact h
  · exact h
  · exact ha _ (s.onLi _) h
  · exact h

theorem inSetup {act : Request → State → State} (ha : RowClosed.Owner RecoveryInOrder act) :
    RowClosed.Owner RecoveryInOrder (inSetup act) := by
  intro q v h
  unfold Machine.inSetup
  split
  · exact h
  · exact ha q v h

theorem loadRoute : RowClosed.Owner RecoveryInOrder loadRoute := by
  intro q v h
  unfold Machine.loadRoute
  split <;> exact h

theorem unloadRoute : RowClosed.Owner RecoveryInOrder unloadRoute := by
  intro q v h
  unfold Machine.unloadRoute
  repeat' split
  all_goals exact h

theorem loadBin : RowClosed.Owner RecoveryInOrder loadBin := by
  intro q v h
  unfold Machine.loadBin writeBin
  repeat' split
  all_goals exact h

theorem loadTray : RowClosed.Owner RecoveryInOrder loadTray := by
  intro q v h
  unfold Machine.loadTray
  split <;> exact h

theorem setTiming : RowClosed.Owner RecoveryInOrder setTiming := by
  intro q v h
  unfold Machine.setTiming
  dsimp only
  repeat' split
  all_goals exact h

theorem start : RowClosed.Owner RecoveryInOrder start := by
  intro q v h
  have hstarted : RecoveryInOrder
      (reply q .done [] ((v.onPds fun p => { p with mode := .running }).onStk fun k => { k with path := .moving })) := h
  unfold Machine.start carryOutStart
  dsimp only
  repeat' split
  · exact h
  · exact hstarted.raise _
  · exact hstarted
  · exact h

theorem stop : RowClosed.Owner RecoveryInOrder stop := by
  intro q v h
  unfold Machine.stop
  repeat' split
  all_goals exact h

theorem readBin : RowClosed.Owner RecoveryInOrder readBin := by
  intro q v h
  unfold Machine.readBin
  split <;> exact h

theorem setRetentionMode : RowClosed.Owner RecoveryInOrder setRetentionMode := by
  intro q v h
  unfold Machine.setRetentionMode
  repeat' split
  all_goals exact h

theorem inquirePage : RowClosed.Owner RecoveryInOrder inquirePage := by
  intro q v h
  unfold Machine.inquirePage
  split <;> exact h

theorem dropPage : RowClosed.Owner RecoveryInOrder dropPage := by
  intro q v h
  unfold Machine.dropPage dropLine loseProtection
  dsimp only
  repeat' split
  all_goals exact h

theorem flush : RowClosed.Owner RecoveryInOrder flush := by
  intro q v h
  unfold Machine.flush
  split <;> exact h

theorem openJob : RowClosed.Owner RecoveryInOrder openJob := by
  intro q v h
  unfold Machine.openJob
  dsimp only
  repeat' split
  all_goals exact h

theorem closeJob : RowClosed.Owner RecoveryInOrder closeJob := by
  intro q v h
  unfold Machine.closeJob checkDone
  dsimp only
  repeat' split
  all_goals exact h

theorem cancelJob : RowClosed.Owner RecoveryInOrder cancelJob := by
  intro q v h
  have hset (j : JobSlot) (w : State) (hw : Calm v w) : Calm v (cancelSet j w) := by
    unfold cancelSet loseProtection
    dsimp only
    repeat' split
    all_goals exact hw
  have hlines (l : List Entry) {w : State} (hw : Calm v w) : Calm v (invalidateEntries l w) :=
    hw.foldl (g := fun x (e : Entry) => invalidateOwner e.seq x) l fun _ _ hx => hx
  unfold Machine.cancelJob Machine.cancel
  dsimp only
  repeat' split
  · exact h
  · exact h
  · exact h.calm (Calm.checkDone _ (hset _ _ (hlines _ (hlines _ (Calm.refl v)))))

theorem trayReady : RowClosed.Owner RecoveryInOrder trayReady := by
  intro q v h
  have hheld (t : Tray) : RecoveryInOrder (clearHeld t v) := by
    rw [clearHeld_eq]
    exact h
  unfold Machine.trayReady
  repeat' split
  · exact h
  · exact (hheld _).trayReadyReport
  · exact h

theorem confirmClear : RowClosed.Owner RecoveryInOrder confirmClear := by
  intro q v h
  unfold Machine.confirmClear
  repeat' split
  next ha _ => exact enterDispose (s := reply q .done _ v) h (status_of_activeIn ha)
  · exact h
  · exact h

end RecoveryInOrder

/-! ### Every row -/

/-- An event, watched, or nothing under PORST. -/
theorem event_recoveryInOrder {f : State → State} {s t : State} (ht : event f s = .next t)
    (h : RecoveryInOrder s) (hf : RecoveryInOrder (f s)) : RecoveryInOrder t := by
  unfold event at ht
  split at ht
  · cases ht; exact h
  · cases ht; exact hf.calm (watchGate_calm s _)

/-- An event that takes no occurrence and closes no record. -/
theorem event_calm {f : State → State} {s t : State} (ht : event f s = .next t) (h : RecoveryInOrder s)
    (hf : Calm s (f s)) : RecoveryInOrder t := event_recoveryInOrder ht h (h.calm hf)

theorem onRequest_recoveryInOrder {code : Nat} {act : Request → State → State} {s t : State}
    (ht : onRequest code act s = .next t) (h : RecoveryInOrder s) (ha : RowClosed.Owner RecoveryInOrder act) :
    RecoveryInOrder t := event_recoveryInOrder ht h (h.takeRequest _ ha)

theorem recoveryOk_reset : RecoveryOk Recovery.reset := .of_clear (fun c => by cases c <;> rfl) rfl

/-- A status row: its block reads the status, and the frame is passed up (R9). -/
theorem statusRow_recoveryInOrder {f : State → State} {x : Frame} {s t : State} (h : RecoveryInOrder s)
    (hf : RecoveryInOrder (f s)) (ht : event (fun v => (f v).onLi (Link.passUp x)) s = .next t) : RecoveryInOrder t :=
  event_recoveryInOrder ht h hf

/-- Every command keeps the Incident Table and the Recovery Stack in order. -/
theorem exec_recoveryInOrder (c : Instr) {s t : State} (h : RecoveryInOrder s) (ht : exec c s = .next t) :
    RecoveryInOrder t := by
  have hc := Calm.refl s
  have reply (r : ReplyCode) (b : State → List Byte) : RowClosed.Owner RecoveryInOrder fun q v => reply q r (b v) v :=
    fun _ _ hv => hv
  cases c with
  | porstAssert => cases ht; unfold assertPorst; split <;> exact h
  | porstRelease =>
    cases ht; unfold releasePorst; split
    · exact recoveryOk_reset
    · exact h
  | writeTransferEnd =>
    change (if s.porst then _ else _) = _ at ht
    split at ht
    · cases ht; exact h
    · cases ht; exact h.calm hc.writeTransferEnd
  | frameReceived p bytes => exact event_recoveryInOrder ht h (h.receive p bytes)
  | order => exact event_calm ht h hc.order
  | band => exact event_calm ht h hc.band
  | engcmd => exact event_recoveryInOrder ht h h.engcmd
  | mgmtUnknownRequest => exact event_recoveryInOrder ht h (h.takeRequest _ (reply _ fun _ => []))
  | readStatus => exact onRequest_recoveryInOrder ht h fun _ _ hv => hv
  | resetPart => exact onRequest_recoveryInOrder ht h fun _ _ _ => recoveryOk_reset
  | loadRoute => exact event_recoveryInOrder ht h (h.takeRequest _ (.inSetup .loadRoute))
  | unloadRoute => exact event_recoveryInOrder ht h (h.takeRequest _ (.inSetup .unloadRoute))
  | loadBin => exact onRequest_recoveryInOrder ht h (.inSetup .loadBin)
  | loadTray => exact onRequest_recoveryInOrder ht h (.inSetup .loadTray)
  | setTiming => exact onRequest_recoveryInOrder ht h (.inSetup .setTiming)
  | start => exact onRequest_recoveryInOrder ht h (.inSetup .start)
  | stop => exact onRequest_recoveryInOrder ht h .stop
  | readSheets => exact onRequest_recoveryInOrder ht h (reply _ _)
  | readBin => exact onRequest_recoveryInOrder ht h .readBin
  | setRetentionMode => exact onRequest_recoveryInOrder ht h .setRetentionMode
  | inquirePage => exact onRequest_recoveryInOrder ht h .inquirePage
  | dropPage => exact onRequest_recoveryInOrder ht h .dropPage
  | flush => exact onRequest_recoveryInOrder ht h .flush
  | flushWalkStep => exact event_calm ht h hc.flushWalkStep
  | openJob => exact onRequest_recoveryInOrder ht h .openJob
  | closeJob => exact onRequest_recoveryInOrder ht h .closeJob
  | cancelJob => exact onRequest_recoveryInOrder ht h .cancelJob
  | trayReady => exact onRequest_recoveryInOrder ht h .trayReady
  | readQueues => exact onRequest_recoveryInOrder ht h (reply _ _)
  | readIncidents => exact onRequest_recoveryInOrder ht h (reply _ _)
  | confirmClear => exact onRequest_recoveryInOrder ht h .confirmClear
  | call tag side => exact event_recoveryInOrder ht h (h.call tag side)
  | trayEmpty t rest => exact statusRow_recoveryInOrder (f := setEmpty t true) h (h.setEmpty t true) ht
  | trayFilled t rest => exact statusRow_recoveryInOrder (f := setEmpty t false) h (h.setEmpty t false) ht
  | binFull b rest => exact statusRow_recoveryInOrder (f := readBinFull b) h (h.readBinFull b) ht
  | binCleared b rest => exact statusRow_recoveryInOrder (f := setFull b false) h (h.setFull b false) ht
  | setEjected b rest => exact statusRow_recoveryInOrder (f := ejectSet b) h (h.calm (hc.ejectSet b)) ht
  | engineFault code => exact statusRow_recoveryInOrder (f := readEngineFault code) h (h.raise _) ht
  | compileFault b rest => exact statusRow_recoveryInOrder (f := readCompileFault b) h (h.readCompileFault b) ht
  | engstatUnread body => exact event_recoveryInOrder ht h (h.engstatUnread body)
  | uFrameSent => exact event_recoveryInOrder ht h h.uFrameSent
  | eFrameSent => exact event_recoveryInOrder ht h h.eFrameSent
  | haltSent => exact event_calm ht h hc.haltSent
  | bandoutSent => exact event_recoveryInOrder ht h h.bandoutSent
  | bandoutGiven => exact event_calm ht h hc.bandoutGiven
  | readTransferEnd => exact event_recoveryInOrder ht h h.readTransferEnd
  | leadEdge ck => exact event_recoveryInOrder ht h (h.leadEdge ck)
  | trailEdge ck => exact event_recoveryInOrder ht h (h.trailEdge ck)
  | coverOpen c first => exact event_recoveryInOrder ht h (h.coverOpen c first)
  | coverShut c => exact event_calm ht h (hc.coverShut c)
  | tpEdge => exact event_calm ht h hc
  | countAdvance => exact event_recoveryInOrder ht h h.countAdvance
  | leadWindowExpiry => exact event_recoveryInOrder ht h h.leadWindowExpiry
  | trailDeadlineExpiry => exact event_recoveryInOrder ht h h.trailDeadlineExpiry
  | runoutDeadlineExpiry => exact event_recoveryInOrder ht h h.runoutDeadlineExpiry
  | pathStill => exact event_recoveryInOrder ht h h.pathStill
  | settleTimerExpiry b => exact event_recoveryInOrder ht h (h.settleTimerExpiry b)
  | coverSettleExpiry => exact event_recoveryInOrder ht h h.coverSettleExpiry
  | admitGateHead => exact event_calm ht h hc.admitGateHead
  | wallTick lines => exact event_calm ht h (hc.coverTimer _)
  | checkpointSampleInstant lines => exact event_calm ht h hc

end Sys2Proof.Machine

namespace Sys2Proof.Proofs
open Sys2Proof.Machine

/-- Settles O60: every row keeps the Incident Table and the Recovery Stack in order; the step runs one row on the rest of the
queue, or idles. -/
theorem stepKeepsIncidents : Obligations.StepKeepsIncidents := by
  unfold Obligations.StepKeepsIncidents
  intro s t h ht
  unfold step at ht
  split at ht
  · cases ht; exact h
  next rest _ => exact exec_recoveryInOrder _ (s := { s with pending := rest }) h ht

end Sys2Proof.Proofs
end

section
/-!
The close of a record, equation by equation (R152, R153, R155, R156, R158 to R160): the path's resume, the record that acts
next and the phase it acts in.
-/
namespace Sys2Proof.Machine

/-! ## The path's resume (R55, R153) -/

theorem IncClass.holdsPath_iff (c : IncClass) : c.holdsPath = true ↔ c = .interlock ∨ c = .jam := by
  cases c <;> simp [IncClass.holdsPath]

theorem requestResume_eq (s : State) : requestResume s =
    if s.stk.path = .halted ∨ s.stk.path = .halting then { s with stk := { s.stk with path := .moving } } else s := by
  unfold requestResume
  cases hp : s.stk.path <;> simp only [reduceCtorEq, or_self, or_true, true_or, if_true, if_false] <;> rfl

/-- The path resumes at the close of the last open INTERLOCK or JAM, from HALTED or HALTING. -/
theorem resumePath_eq (c : IncClass) (s : State) : resumePath c s =
    if (c = .interlock ∨ c = .jam) ∧ s.rcc.interlock = none ∧ s.rcc.jam = none ∧
        (s.stk.path = .halted ∨ s.stk.path = .halting) then
      { s with stk := { s.stk with path := .moving } }
    else s := by
  have hlast : (c.holdsPath && !s.rcc.holdsPath) = true ↔
      (c = .interlock ∨ c = .jam) ∧ s.rcc.interlock = none ∧ s.rcc.jam = none := by
    rw [Bool.and_eq_true, c.holdsPath_iff, Bool.not_eq_true', holdsPath_eq_false]
  unfold resumePath
  rw [requestResume_eq]
  by_cases hl : (c = .interlock ∨ c = .jam) ∧ s.rcc.interlock = none ∧ s.rcc.jam = none
  · rw [if_pos (hlast.2 hl)]
    exact if_congr ⟨fun hp => ⟨hl.1, hl.2.1, hl.2.2, hp⟩, fun h => h.2.2.2⟩ rfl rfl
  · rw [if_neg (mt hlast.1 hl), if_neg fun h => hl ⟨h.1, h.2.1, h.2.2.1⟩]

/-! ## The phases the next record starts or resumes in -/

theorem enterOpen_eq {s : State} {i : Incident} (h : s.rcc.interlock = some i) : enterOpen s = requestHalt { s with
    rcc := { s.rcc with interlock := some { i with phase := .opened }, coverTimer := none } } := by
  rw [enterOpen, setPhase_interlock h]
  rfl

theorem stillLacking_iff (s : State) (x : Obj) : stillLacking s x = true ↔
    (∃ t, x = .tray t ∧ s.ogt.trays[t].empty = true) ∨ ∃ b, x = .bin b ∧ s.dlu.bins[b].full = true := by
  cases x <;> simp [stillLacking]

/-- The close condition of SUPPLY: no object of the hold list is lacking (R159). -/
theorem testSupply_cases (cl : IncClass → State → State) {s : State} {i : Incident} (hi : s.rcc.supply = some i) :
    let lacks := ∃ x ∈ i.hold, (∃ t, x = .tray t ∧ s.ogt.trays[t].empty = true) ∨ ∃ b, x = .bin b ∧ s.dlu.bins[b].full = true
    (lacks → testSupply cl s = s) ∧ (¬lacks → testSupply cl s = cl .supply s) := by
  intro lacks
  have hlacks : lacks ↔ ¬∀ x ∈ i.hold, stillLacking s x = false := by
    simp only [lacks, ← stillLacking_iff, not_forall, Bool.not_eq_false, exists_prop]
  rw [testSupply_eq cl hi]
  exact ⟨fun h => if_neg (hlacks.1 h), fun h => if_pos (not_not.1 (mt hlacks.2 h))⟩

section
variable {s : State} {k : Incident} (cl : IncClass → State → State)

theorem resumePhase_jam (h : s.rcc.jam = some k) : resumePhase cl .jam s = resumeJam cl k.phase s := by
  simp only [resumePhase, h, Option.map_some, Option.getD_some]

theorem resumeMisfeed_judged (h : s.rcc.misfeed = some k) (hj : ∀ m, k.misfeed = some m → m.judged = true) :
    resumeMisfeed cl s = testTrayHold cl s := by
  unfold resumeMisfeed
  rw [h, Option.bind_some]
  cases hm : k.misfeed with
  | none => rfl
  | some m => exact if_pos (hj m hm)

theorem resumeMisfeed_unjudged {m : Misfeed} (h : s.rcc.misfeed = some k) (hm : k.misfeed = some m)
    (hj : m.judged = false) : resumeMisfeed cl s = enterRetry cl s := by
  unfold resumeMisfeed
  rw [h, Option.bind_some, hm]
  exact if_neg (Bool.eq_false_iff.1 hj)

end

/-! ## The record that acts next -/

section
variable {r : Recovery} {d : IncClass} {j : Incident} (hj : r.get d = some j)
include hj

/-- A PENDING record becomes ACTIVE, and the stack stays. -/
theorem activated_pending (hp : r.statusOf d = some .pending) :
    r.activated d = r.set d (some { j with status := .active }) := by
  rw [Recovery.activated, if_pos hp, hj]
  cases d <;> rfl

/-- The top frame's record becomes ACTIVE, and the frame leaves the stack. -/
theorem activated_top {ts : List IncClass} (hs : r.stack = d :: ts) (hp : j.status = .preempted) :
    r.activated d = { r.set d (some { j with status := .active }) with stack := ts } := by
  rw [Recovery.activated, if_neg (by simp [statusOf_of_get hj, hp]), hs, hj]
  rfl

end

section
variable {c : IncClass} {s : State} {i : Incident} (n : Nat) (hi : s.rcc.get c = some i)
include hi

theorem closeRecord_none (hp : ∀ d, (s.rcc.cleared c).statusOf d ≠ some .pending) (hs : (s.rcc.cleared c).stack = []) :
    closeRecord (n + 1) c s = resumePath c (s.withClosed c i none) :=
  closeRecord_last n hi (choose_eq_none.2 ⟨firstPending_eq_none.2 hp, hs⟩)

/-- The next record is the most urgent PENDING one: it starts its first phase. -/
theorem closeRecord_starts {d : IncClass} {j : Incident} (hp : (s.rcc.cleared c).firstPending = some d)
    (ht : ∀ e ts, (s.rcc.cleared c).stack = e :: ts → d.level < e.level) (hj : (s.rcc.cleared c).get d = some j) :
    closeRecord (n + 1) c s = resumePath c (startPhase (closeRecord n) d { s.withClosed c i (some d) with
      rcc := (s.rcc.cleared c).set d (some { j with status := .active }) }) := by
  have hd := ((firstPending_iff _ d).1 hp).1
  rw [closeRecord_next n hi (choose_pending hp ht), activate_pending (s := s.withClosed c i (some d)) _ hd]
  exact congrArg (fun r => resumePath c (startPhase _ d { s.withClosed c i (some d) with rcc := r }))
    (activated_pending hj hd)

/-- The next record is the top frame's: it resumes. -/
theorem closeRecord_resumes {d : IncClass} {ts : List IncClass} {j : Incident} (hs : (s.rcc.cleared c).stack = d :: ts)
    (hp : ∀ p, (s.rcc.cleared c).firstPending = some p → ¬p.level < d.level) (hj : (s.rcc.cleared c).get d = some j)
    (ha : j.status = .preempted) :
    closeRecord (n + 1) c s = resumePath c (resumePhase (closeRecord n) d { s.withClosed c i (some d) with
      rcc := { (s.rcc.cleared c).set d (some { j with status := .active }) with stack := ts } }) := by
  have hd : (s.rcc.cleared c).statusOf d ≠ some .pending := by
    rw [statusOf_of_get hj, ha]
    exact fun h => nomatch h
  rw [closeRecord_next n hi (choose_top hs hp), activate_resumes (s := s.withClosed c i (some d)) _ hd]
  exact congrArg (fun r => resumePath c (resumePhase _ d { s.withClosed c i (some d) with rcc := r }))
    (activated_top hj hs ha)

end

/-- The table when the only open record is CLEAR. -/
theorem cleared_only {r : Recovery} {c : IncClass} (h : ∀ d, d ≠ c → r.get d = none) : r.cleared c = { r with
    interlock := none, jam := none, misfeed := none, supply := none
    coverTimer := if c = .interlock then none else r.coverTimer } := by
  have hnone (d : IncClass) : (r.cleared c).get d = none := by
    by_cases hd : d = c
    · rw [hd, get_cleared_same]
    · rw [get_cleared_other r hd, h d hd]
  have hi : (r.cleared c).interlock = none := hnone .interlock
  have hj : (r.cleared c).jam = none := hnone .jam
  have hm : (r.cleared c).misfeed = none := hnone .misfeed
  have hs : (r.cleared c).supply = none := hnone .supply
  calc r.cleared c = ⟨(r.cleared c).interlock, (r.cleared c).jam, (r.cleared c).misfeed, (r.cleared c).supply,
        (r.cleared c).stack, (r.cleared c).coverTimer⟩ := rfl
    _ = _ := by rw [hi, hj, hm, hs, stack_cleared]; rfl

/-- The only open record closes: no record is next, and the path resumes. -/
theorem close_only {s : State} {c : IncClass} {i : Incident} (hi : s.rcc.get c = some i)
    (ho : ∀ d, d ≠ c → s.rcc.get d = none) (hk : s.rcc.stack = []) : close c s = { s with
      li := Link.post (.incidentClosed c i.first i.count none) s.li
      rcc := { s.rcc with
        interlock := none, jam := none, misfeed := none, supply := none
        coverTimer := if c = .interlock then none else s.rcc.coverTimer }
      stk := { s.stk with path :=
        if (c = .interlock ∨ c = .jam) ∧ (s.stk.path = .halted ∨ s.stk.path = .halting) then .moving
        else s.stk.path } } := by
  have hnone (d : IncClass) : (s.rcc.cleared c).statusOf d = none := by
    rw [statusOf_eq_none, cleared_only ho]
    cases d <;> rfl
  refine (closeRecord_none 3 hi (fun d => by simp [hnone d]) ((stack_cleared _ _).trans hk)).trans ?_
  rw [resumePath_eq, State.withClosed, cleared_only ho]
  by_cases hp : (c = .interlock ∨ c = .jam) ∧ (s.stk.path = .halted ∨ s.stk.path = .halting)
  · rw [if_pos ⟨hp.1, rfl, rfl, hp.2⟩, if_pos hp]
  · rw [if_neg fun h => hp ⟨h.1, h.2.2.2⟩, if_neg hp]

end Sys2Proof.Machine

namespace Sys2Proof.Proofs
open Sys2Proof.Machine

/-- Settles O54: a close by the record that acts next and, for a frame's record, by its saved phase. -/
theorem recordCloses : Obligations.RecordCloses := by
  unfold Obligations.RecordCloses
  refine ⟨⟨fun s c h => closeRecord_clear 4 h, fun s c i hi ho hk => close_only hi ho hk,
    fun s h c i hi ha => close_clears h hi ha⟩, fun _ _ => rfl, fun n s c i hi => ?closes, fun s i hi => enterOpen_eq hi,
    fun cl s i hi => testSupply_cases cl hi, fun cl s i hi => ?trayHold⟩
  case closes =>
    intro r first closed resumed
    have hres (t : State) : resumePath c t = resumed t := resumePath_eq c t
    have hfirst (d : IncClass) : r.firstPending = some d ↔ first d := firstPending_iff r d
    refine ⟨fun hp hs => ?_, fun d j hd ht hj => ?_, fun d ts j hs hp hj ha => ?_⟩
    · exact (closeRecord_none n hi hp hs).trans (hres _)
    · intro u
      have hstart : closeRecord (n + 1) c s = resumed (startPhase (closeRecord n) d u) :=
        (closeRecord_starts n hi ((hfirst d).2 hd) ht hj).trans (hres _)
      refine ⟨?_, ?_, ?_, ?_⟩ <;> (rintro rfl; exact hstart)
    · intro u
      have hresume : closeRecord (n + 1) c s = resumed (resumePhase (closeRecord n) d u) :=
        (closeRecord_resumes n hi hs (fun p hf => hp p ((hfirst p).1 hf)) hj ha).trans (hres _)
      have hjam (hd : d = .jam) : closeRecord (n + 1) c s = resumed (resumeJam (closeRecord n) j.phase u) := by
        subst hd
        exact hresume.trans (congrArg resumed (resumePhase_jam _ (k := { j with status := .active }) rfl))
      refine ⟨?_, fun hd hphase => ?_, fun hd hphase => ?_, fun hd hphase => ?_, fun hd hphase => ?_, fun hd hm => ?_,
        fun hd m hm hjudged => ?_, ?_⟩
      · rintro rfl; exact hresume
      · rw [hjam hd, hphase]; rfl
      · rw [hjam hd, hphase]; rfl
      · rw [hjam hd]
        rcases hphase with hphase | hphase | hphase <;> rw [hphase] <;> rfl
      · rw [hjam hd, hphase]; rfl
      · subst hd
        exact hresume.trans (congrArg resumed (resumeMisfeed_judged _ (k := { j with status := .active }) rfl hm))
      · subst hd
        exact hresume.trans
          (congrArg resumed (resumeMisfeed_unjudged _ (k := { j with status := .active }) rfl hm hjudged))
      · rintro rfl; exact hresume
  case trayHold =>
    intro held u
    have hheld : i.hold.filter (stillHeld s) = held := congrArg (i.hold.filter ·) (funext fun x => by cases x <;> rfl)
    have hu : { s with rcc := { s.rcc with misfeed := some (i.inTrayHold s) } } = u := by
      rw [Incident.inTrayHold, hheld]
    rw [testTrayHold_eq cl hi, hheld, hu]
    exact ⟨fun h => if_neg h, fun h => if_pos h⟩

end Sys2Proof.Proofs
end

section
/-!
The taking of an occurrence, class by class (R55, R138, R149 to R151, R155, R159, R163, R164, R177): what opens, preempts, waits
or merges, and what the Order Gate and the path are told of it.
-/
namespace Sys2Proof.Machine

/-! ## The halt an opening asks for (R55, R155, R164) -/

section
variable {s : State}

theorem requestHalt_moves (h : s.stk.path = .moving ∨ s.stk.path = .runningOut) :
    requestHalt s = { s with stk := { s.stk with path := .halting }, li := s.li.placeHalt } := by
  unfold requestHalt
  rcases h with h | h <;> rw [h] <;> rfl

theorem requestHalt_halts (h : s.stk.path = .halting ∨ s.stk.path = .halted) : requestHalt s = s := by
  unfold requestHalt
  rcases h with h | h <;> rw [h]

/-- A JAM enters STOP (R164). -/
theorem enterStop_eq {i : Incident} (h : s.rcc.jam = some i) {t : State} (ht : t = { s with
      rcc := { s.rcc with jam := some { i with phase := .stop } }
      li := { s.li with runoutPlace := none, divertQueue := [] } }) :
    enterStop s = if s.stk.path = .halted then enterAssess t else requestHalt t := by
  subst ht
  rw [enterStop, setPhase_jam h]
  rfl

theorem enterStop_fresh {i : Incident} (h : s.rcc.jam = some i) (hp : i.phase = .stop) (hs : s.stk.path ≠ .halted) :
    enterStop s = requestHalt { s with li := { s.li with runoutPlace := none, divertQueue := [] } } := by
  have hi : some { i with phase := .stop } = s.rcc.jam := by rw [h, ← hp]
  rw [enterStop_eq h rfl, if_neg hs, hi]

theorem enterOpen_fresh {i : Incident} (h : s.rcc.interlock = some i) (hp : i.phase = .opened) :
    enterOpen s = requestHalt { s with rcc := { s.rcc with coverTimer := none } } := by
  have hi : some { i with phase := .opened } = s.rcc.interlock := by rw [h, ← hp]
  rw [enterOpen_eq h, hi]

end

/-! ## The withdrawal of an admission, and the frames of a JAM (R138, R177) -/

theorem withdrawAdmission_path (s : State) : (withdrawAdmission s).stk.path = s.stk.path := by
  unfold withdrawAdmission
  dsimp only
  repeat' split
  · rfl
  · rw [onOgt_stk, returnEntry_stk]
    rfl
  · rfl

theorem withdrawAdmission_li (s : State) : (withdrawAdmission s).li = { s.li with feedPlace := none } := by
  have returned (r : Sheet) (u : State) : (returnEntry r u).li = u.li := by
    unfold returnEntry
    dsimp only
    split <;> rfl
  unfold withdrawAdmission
  dsimp only
  repeat' split
  next h => rw [← h]
  · exact returned _ _
  · rfl

/-- No RUNOUT or DIVERT frame waits. -/
def Link.NoFrames (l : Link) : Prop := l.runoutPlace = none ∧ l.divertQueue = []

theorem LinkKept.noFrames {l m : Link} (h : LinkKept l m) (hl : l.NoFrames) : m.NoFrames :=
  ⟨h.runoutPlace.trans hl.1, h.divertQueue.trans hl.2⟩

theorem requestHalt_noFrames {s : State} (h : s.li.NoFrames) : (requestHalt s).li.NoFrames := by
  have placed : s.li.placeHalt.NoFrames := by
    unfold Link.placeHalt Link.startE
    dsimp only
    split <;> exact h
  unfold requestHalt
  split
  · exact placed
  · exact placed
  · exact h
  · exact h

/-! ## A record opens -/

section
variable {o : Occurrence}

/-- The record an INTERLOCK or JAM opens with. -/
theorem fillRecord_path (h : o.cls = .interlock ∨ o.cls = .jam) (st : IncStatus) :
    fillRecord o st = ⟨st, if o.cls = .jam then .stop else .opened, o.detail.cause, 1, [o.detail], [], o.misfeed,
      decide (o.detail.cause = .compile), false⟩ := by
  rcases h with h | h <;> simp [fillRecord, h, IncClass.firstPhase]

/-- `s` once the record has opened and the Order Gate has been told of it: an admission is withdrawn, and the gate judges its
head by what has changed since `before`. -/
def State.told (o : Occurrence) (st : IncStatus) (victim : Option IncClass) (s before : State) : State :=
  watchGate before (withdrawAdmission (s.opened o st victim))

theorem told_calm (o : Occurrence) (st : IncStatus) (victim : Option IncClass) (before s : State) :
    Calm (s.opened o st victim) (s.told o st victim before) := (Calm.refl _).withdrawAdmission.watchGate before

section
variable (h : o.cls = .interlock ∨ o.cls = .jam)
include h

theorem reportOpening_path (before s : State) : reportOpening o before s = watchGate before (withdrawAdmission s) :=
  if_pos ((IncClass.holdsPath_iff _).2 h)

/-- The watch leaves the INTERLOCK or JAM that has opened as it is. -/
theorem told_get (st : IncStatus) (victim : Option IncClass) (before s : State) :
    (s.told o st victim before).rcc.get o.cls = some (fillRecord o st) := by
  have hw := watchGate_watched before (withdrawAdmission (s.opened o st victim))
  have hr : (withdrawAdmission (s.opened o st victim)).rcc = s.rcc.set o.cls (some (fillRecord o st)) :=
    withdrawAdmission_rcc _
  rcases h with h | h <;> rw [h] at hr ⊢
  · exact hw.recInterlock.trans (congrArg Recovery.interlock hr)
  · exact hw.recJam.trans (congrArg Recovery.jam hr)

/-- What an INTERLOCK or JAM that has become ACTIVE does: an INTERLOCK stops the timer, a JAM enters STOP, and the path is
halted. -/
def State.startsPath (o : Occurrence) (s : State) : State :=
  if o.cls = .jam then enterStop s else requestHalt { s with rcc := { s.rcc with coverTimer := none } }

theorem startPhase_told (victim : Option IncClass) (before s : State) :
    startPhase close o.cls (s.told o .active victim before) = (s.told o .active victim before).startsPath o := by
  have hg := told_get h .active victim before s
  unfold State.startsPath
  rcases h with h | h
  · rw [if_neg (by simp [h])]
    rw [h] at hg ⊢
    exact enterOpen_fresh hg (by simp [fillRecord, h, IncClass.firstPhase])
  · rw [if_pos h, h]
    rfl

/-- An INTERLOCK or JAM opens with no other record ACTIVE (R150). -/
theorem openRecord_alone {s : State} (ha : s.rcc.active = none) :
    openRecord o s = (s.told o .active none s).startsPath o := by
  rw [← startPhase_told h, openRecord, placeRecord_alone ha, reportOpening_path h]
  exact if_pos (statusFor_none ha _)

section
variable {s : State} {a : IncClass} (ha : s.rcc.active = some a)
include ha

/-- It preempts a less urgent record (R150, R177). -/
theorem openRecord_preempts {j : Incident} (hj : s.rcc.get a = some j) (hlt : o.cls.level < a.level) :
    openRecord o s = ((s.withPreempted a j).told o .active (some a) s).startsPath o := by
  rw [← startPhase_told h, openRecord, placeRecord_preempts ha hj hlt, reportOpening_path h]
  exact if_pos ((statusFor_some ha _).trans (if_pos hlt))

/-- It waits behind a more urgent one. -/
theorem openRecord_waits (hlt : ¬o.cls.level < a.level) : openRecord o s = s.told o .pending none s := by
  rw [openRecord, placeRecord_waits ha hlt, reportOpening_path h]
  exact if_neg (by simp [statusFor_some ha, hlt])

end

/-- The halt of a path that moves, at an opening. -/
theorem startsPath_moving {g : State} (hg : g.rcc.get o.cls = some (fillRecord o .active))
    (hp : g.stk.path = .moving ∨ g.stk.path = .runningOut) : g.startsPath o = { g with
      stk := { g.stk with path := .halting }
      li := Link.placeHalt (if o.cls = .jam then { g.li with runoutPlace := none, divertQueue := [] } else g.li)
      rcc := if o.cls = .jam then g.rcc else { g.rcc with coverTimer := none } } := by
  unfold State.startsPath
  rcases h with h | h
  · simp only [h, reduceCtorEq, if_false]
    exact requestHalt_moves (s := { g with rcc := { g.rcc with coverTimer := none } }) hp
  · rw [h] at hg
    have hne : g.stk.path ≠ .halted := by rcases hp with hp | hp <;> simp [hp]
    simp only [h, if_true]
    rw [enterStop_fresh hg (by simp [fillRecord, h, IncClass.firstPhase]) hne]
    exact requestHalt_moves hp

omit h in
theorem startsPath_calm (o : Occurrence) (s : State) : Calm s (s.startsPath o) := by
  unfold State.startsPath
  split
  · exact (Calm.refl s).enterStop
  · exact ((Calm.refl s).coverTimer none).requestHalt

end

/-- A MISFEED or SUPPLY opens without a word to the Order Gate. -/
theorem reportOpening_quiet (h : o.cls = .misfeed ∨ o.cls = .supply) (before s : State) :
    reportOpening o before s = s := by
  refine if_neg ?_
  rw [IncClass.holdsPath_iff]
  rcases h with h | h <;> simp [h]

theorem openRecord_quiet (h : o.cls = .misfeed ∨ o.cls = .supply) (s : State) :
    openRecord o s = if s.rcc.statusFor o.cls = .active then startPhase close o.cls (placeRecord o s)
      else placeRecord o s := by
  rw [openRecord, reportOpening_quiet h]

theorem path_or_quiet (c : IncClass) : (c = .interlock ∨ c = .jam) ∨ c = .misfeed ∨ c = .supply := by
  cases c <;> simp

end

/-! ### The table after an opening -/

section
variable {o : Occurrence} {s : State} {a : IncClass} (ha : s.rcc.active = some a)
include ha

/-- A preempted record stands on the stack under the ACTIVE one that has opened. -/
theorem openRecord_preempts_table (h : o.cls = .interlock ∨ o.cls = .jam) (hlt : o.cls.level < a.level) :
    (∃ i, (openRecord o s).rcc.get o.cls = some i ∧ i.status = .active ∧ i.first = o.detail.cause ∧ i.count = 1) ∧
      (openRecord o s).rcc.statusOf a = some .preempted ∧ (openRecord o s).rcc.stack = a :: s.rcc.stack := by
  obtain ⟨j, hj, _⟩ := get_of_statusOf (status_of_active ha)
  have hc : Calm ((s.withPreempted a j).opened o .active (some a)) (openRecord o s) := by
    rw [openRecord_preempts h ha hj hlt]
    exact (told_calm o _ _ s _).trans (startsPath_calm o _)
  have hac : a ≠ o.cls := fun he => Nat.lt_irrefl _ (he ▸ hlt)
  have hsup : o.cls ≠ .supply := by rcases h with h | h <;> simp [h]
  have hs : ((s.withPreempted a j).opened o .active (some a)).rcc.statusOf a = some .preempted := by
    refine (statusOf_set_other _ _ hac).trans ?_
    rw [Recovery.statusOf, State.withPreempted, get_stack, get_set_same]
    rfl
  obtain ⟨i, hi, htally⟩ := hc.record hsup (get_set_same _ _ _)
  refine ⟨⟨i, hi, ?_⟩, (hc.statusOf_open (by simp [hs])).trans hs, hc.stack.trans (stack_set _ _ _)⟩
  simp only [Incident.tally, Prod.mk.injEq] at htally
  exact ⟨htally.1, htally.2.1, htally.2.2.1⟩

/-- A JAM preempted in RUNOUT has lost the frames that waited (R177). -/
theorem openRecord_preempts_frames (h : o.cls = .interlock ∨ o.cls = .jam) (hc : s.rcc.get o.cls = none)
    (hlt : o.cls.level < a.level) (hr : s.rcc.activeIn .jam .runout = true) : (openRecord o s).li.NoFrames := by
  obtain ⟨i, hi, hact, hphase⟩ := (activeIn_iff _ _ _).1 hr
  have hcls : o.cls = .interlock := h.resolve_right fun hjam => by rw [hjam, hi] at hc; cases hc
  have hjam : a = .jam := by
    have hle := active_le ha (hact ▸ statusOf_of_get hi)
    rw [hcls] at hlt
    exact level_injective (Nat.le_antisymm hle hlt)
  subst hjam
  have hfree : ((s.withPreempted .jam i).opened o .active (some .jam)).li.NoFrames := by
    refine (post_kept _ _).noFrames ?_
    rw [State.withPreempted, if_pos ⟨rfl, hphase⟩]
    exact ⟨rfl, rfl⟩
  have htold : ((s.withPreempted .jam i).told o .active (some .jam) s).li.NoFrames := by
    refine (watchGate_watched s _).li.noFrames ?_
    rw [withdrawAdmission_li]
    exact hfree
  rw [openRecord_preempts h ha hi hlt, State.startsPath, if_neg (by simp [hcls])]
  exact requestHalt_noFrames (s := { (s.withPreempted .jam i).told o .active (some .jam) s with rcc := _ }) htold

/-- A record that waits leaves the ACTIVE one and the stack. -/
theorem openRecord_waits_table (hc : s.rcc.get o.cls = none) (hlt : ¬o.cls.level < a.level) :
    (∃ i, (openRecord o s).rcc.get o.cls = some i ∧ i.status = .pending ∧ i.first = o.detail.cause ∧ i.count = 1) ∧
      (openRecord o s).rcc.active = some a ∧ (openRecord o s).rcc.stack = s.rcc.stack := by
  have hact : (s.opened o .pending none).rcc.active = some a := by
    refine (active_congr fun d => ?_).trans ha
    by_cases hd : d = o.cls
    · subst hd
      rw [statusOf_eq_none.2 hc]
      exact iff_of_false (fun hs => by simp [State.opened, fillRecord] at hs) (fun hs => nomatch hs)
    · exact Eq.congr_left (statusOf_set_other _ _ hd)
  have hget : (s.opened o .pending none).rcc.get o.cls = some (fillRecord o .pending) := get_set_same _ _ _
  rcases path_or_quiet o.cls with h | h
  · have hcalm : Calm (s.opened o .pending none) (openRecord o s) := by
      rw [openRecord_waits h ha hlt]
      exact told_calm o _ _ s s
    have hsup : o.cls ≠ .supply := by rcases h with h | h <;> simp [h]
    obtain ⟨i, hi, htally⟩ := hcalm.record hsup hget
    simp only [Incident.tally, Prod.mk.injEq] at htally
    exact ⟨⟨i, hi, htally.1, htally.2.1, htally.2.2.1⟩, hcalm.active_eq hact, hcalm.stack.trans (stack_set _ _ _)⟩
  · have heq : openRecord o s = s.opened o .pending none := by
      rw [openRecord_quiet h, if_neg (by simp [statusFor_some ha, hlt]), placeRecord_waits ha hlt]
    rw [heq]
    exact ⟨⟨_, hget, rfl, rfl, rfl⟩, hact, stack_set _ _ _⟩

end

/-! ## An occurrence merges (R151) -/

section
variable {o : Occurrence} {s : State} {i : Incident} (hi : s.rcc.get o.cls = some i)
include hi

/-- An INTERLOCK or JAM that takes an occurrence is calm but for the record's own count. -/
theorem mergeOccurrence_calm (h : o.cls = .interlock ∨ o.cls = .jam) :
    Calm { s with rcc := s.rcc.set o.cls (some (mergeRecord o i)) } (mergeOccurrence o i s) := by
  unfold mergeOccurrence
  rw [onIncident_eq hi]
  rcases h with h | h <;> rw [h]
  · exact (Calm.refl _).enterOpen
  · dsimp only
    unfold mergeJam
    split
    · exact (Calm.refl _).enterStop
    · exact (Calm.refl _).setPhase .jam .stop
    · exact .refl _

/-- What the record of an INTERLOCK or JAM holds after a merge. -/
theorem mergeOccurrence_table (h : o.cls = .interlock ∨ o.cls = .jam) :
    ∃ j, (mergeOccurrence o i s).rcc.get o.cls = some j ∧ j.tally = (mergeRecord o i).tally :=
  (mergeOccurrence_calm hi h).record (by rcases h with h | h <;> simp [h]) (get_set_same _ _ _)

end

theorem joinHold_eq (x : Obj) (i : Incident) :
    joinHold x i = { i with hold := if i.hold.contains x then i.hold else i.hold ++ [x] } := by
  unfold joinHold
  split <;> rfl

/-- A SUPPLY that takes an occurrence holds its object, and an ACTIVE one tests whether it still lacks anything. -/
theorem mergeOccurrence_supply {o : Occurrence} {s : State} {i : Incident} {x : Obj} (hc : o.cls = .supply)
    (hx : o.detail.obj = some x) (hi : s.rcc.supply = some i) {t : State}
    (ht : t = { s with rcc := { s.rcc with supply := some (joinHold x (mergeRecord o i)) } }) :
    mergeOccurrence o i s = if i.status = .active then testSupply close t else t := by
  have hjoined : onIncident .supply (joinHold x) (onIncident .supply (mergeRecord o) s) = t := by
    rw [onIncident_eq (c := .supply) hi, onIncident_eq (i := mergeRecord o i) rfl, ht]
    rfl
  simp only [mergeOccurrence, mergeSupply, hc, hx, hjoined]

end Sys2Proof.Machine

namespace Sys2Proof.Proofs
open Sys2Proof.Machine

/-- Settles O53: an occurrence by its class and by whether its record is open; what opens by the record that is ACTIVE. -/
theorem occurrenceIsTaken : Obligations.OccurrenceIsTaken := by
  unfold Obligations.OccurrenceIsTaken
  refine ⟨fun s o hm => if_pos hm, fun s o hm h hc ha hp => ?halts, fun s o hm h hc => ?opens, fun s o hm hc => ?table,
    fun s o i hm h hi => ?counts, fun s o m hm h hx => ?misfeed, fun s o x hm h hx => ?supply, fun s i hi => ?lacks,
    fun s o i hm hi => ?merges, fun s i hi => ?stops, fun s => ⟨requestHalt_moves, requestHalt_halts⟩⟩
  case halts =>
    intro i g
    have hg : s.told o .active none s = g := by rw [State.told, State.opened, fillRecord_path h]
    have hpath : g.stk.path = s.stk.path :=
      (congrArg Tracker.path (watchGate_stk _ s)).trans (withdrawAdmission_path _)
    rw [raise_opens hm hc, openRecord_alone h ha, hg]
    exact startsPath_moving h (hg ▸ told_get h .active none s s) (hpath ▸ hp)
  case opens =>
    intro opened start
    have htold (st : IncStatus) (pre : Option IncClass) (u : State) : u.told o st pre s = opened st pre u := by
      rw [State.told, State.opened, fillRecord_path h]
    have hstart (u : State) : u.startsPath o = start u := rfl
    rw [raise_opens hm hc]
    refine ⟨fun ha => ?_, fun a j ha hj => ⟨fun hlt => ?_, fun hlt => ?_⟩⟩
    · rw [openRecord_alone h ha, htold, hstart]
    · rw [openRecord_preempts h ha hj hlt, htold, hstart]
      rfl
    · rw [openRecord_waits h ha hlt, htold]
  case table =>
    intro r
    have hr : r = (openRecord o s).rcc := congrArg State.rcc (raise_opens hm hc)
    rw [hr, raise_opens hm hc]
    refine ⟨fun a ha hlt h => ?_, fun a ha hlt => openRecord_waits_table ha hc hlt⟩
    obtain ⟨hrecord, hstatus, hstack⟩ := openRecord_preempts_table ha h hlt
    exact ⟨hrecord, hstatus, hstack, openRecord_preempts_frames ha h hc hlt⟩
  case counts =>
    obtain ⟨j, hj, htally⟩ := mergeOccurrence_table hi h
    simp only [Incident.tally, Prod.mk.injEq] at htally
    obtain ⟨hstatus, hfirst, hcount, hdetails, hpurge⟩ := htally
    rw [raise_merges hm hi]
    refine ⟨j, hj, hcount, hstatus, hfirst, hdetails, ?_⟩
    rw [hpurge]
    simp [mergeRecord]
  case misfeed =>
    obtain ⟨cls, detail, misfeed⟩ := o
    dsimp only at h hx
    subst h hx
    intro opened
    have hopens (hc : s.rcc.misfeed = none) :=
      (raise_opens (o := ⟨.misfeed, detail, some m⟩) hm hc).trans (openRecord_quiet (.inl rfl) s)
    have hmerges {j : Incident} (hj : s.rcc.misfeed = some j) := raise_merges (o := ⟨.misfeed, detail, some m⟩) hm hj
    have hopened (st : IncStatus) (pre : Option IncClass) (u : State) (hu : u.li = s.li) :
        u.opened ⟨.misfeed, detail, some m⟩ st pre = { u with
          li := (opened st pre u.rcc).li, rcc := (opened st pre u.rcc).rcc } := by
      rw [State.opened, hu]
      rfl
    refine ⟨fun hc ha => ?_, fun j hc ha hj => ?_, fun hc ha => ?_, fun j hj => ?_⟩
    · rw [hopens hc, if_pos (statusFor_none ha _), placeRecord_alone ha, hopened _ _ _ rfl]
      rfl
    · have hlt : IncClass.misfeed.level < IncClass.supply.level := by decide
      rw [hopens hc, if_pos ((statusFor_some ha .misfeed).trans (if_pos hlt)), placeRecord_preempts ha hj hlt,
        hopened _ _ (s.withPreempted .supply j) rfl]
      rfl
    · obtain ⟨a, ha, hlt⟩ : ∃ a, s.rcc.active = some a ∧ ¬IncClass.misfeed.level < a.level := by
        rcases ha with ha | ha
        · exact ⟨_, ha, by decide⟩
        · exact ⟨_, ha, by decide⟩
      rw [hopens hc, if_neg (by simp [statusFor_some ha, hlt]), placeRecord_waits ha hlt,
        hopened _ _ _ rfl]
    · rw [hmerges hj, mergeOccurrence, onIncident_eq (c := .misfeed) hj]
      rfl
  case supply =>
    obtain ⟨cls, detail, misfeed⟩ := o
    dsimp only at h hx
    subst h
    intro opened
    have hopened (st : IncStatus) : s.opened ⟨.supply, detail, misfeed⟩ st none = opened st := by
      rw [State.opened, fillRecord]
      simp only [hx, if_true, Option.toList_some]
      rfl
    have hopens (hc : s.rcc.supply = none) :=
      (raise_opens (o := ⟨.supply, detail, misfeed⟩) hm hc).trans (openRecord_quiet (.inr rfl) s)
    have hmerges {j : Incident} (hj : s.rcc.supply = some j) := raise_merges (o := ⟨.supply, detail, misfeed⟩) hm hj
    refine ⟨fun hc ha => ?_, fun hc ha => ?_, fun j hj => ?_⟩
    · rw [hopens hc, if_pos (statusFor_none ha _), placeRecord_alone ha, hopened]
      rfl
    · obtain ⟨a, ha⟩ := Option.ne_none_iff_exists'.1 ha
      have hlt := level_le_supply a
      rw [hopens hc, if_neg (by simp [statusFor_some ha, hlt]), placeRecord_waits ha hlt, hopened]
    · intro t
      have hmerge : raise ⟨.supply, detail, misfeed⟩ s = if j.status = .active then testSupply close t else t :=
        (hmerges hj).trans (mergeOccurrence_supply rfl hx hj (by rw [joinHold_eq]; rfl))
      exact ⟨fun ha => hmerge.trans (if_pos ha), fun ha => hmerge.trans (if_neg ha)⟩
  case lacks => exact testSupply_cases close hi
  case merges =>
    intro j
    have hmerged : onIncident o.cls (mergeRecord o) s = { s with rcc := s.rcc.set o.cls (some j) } := onIncident_eq hi _
    refine ⟨fun h => ?_, fun h => ?_⟩
    · rw [raise_merges hm hi, mergeOccurrence, hmerged, h]
      exact enterOpen_eq rfl
    · intro t
      have ht {st : IncStatus} (hs : i.status = st) : raise o s = mergeJam st t := by
        rw [raise_merges hm hi, mergeOccurrence, hmerged, h, ← hs]
        rfl
      exact ⟨fun hs => ht hs, fun hs => (ht hs).trans (setPhase_jam (s := t) rfl _), fun hs => ht hs⟩
  case stops =>
    intro t
    have ht : enterStop s = if s.stk.path = .halted then enterAssess t else requestHalt t := enterStop_eq hi rfl
    exact ⟨fun h => ht.trans (if_pos h), fun h => ht.trans (if_neg h)⟩

end Sys2Proof.Proofs
end

section
/-!
CONFIRM CLEAR (R168, R169), DISPOSE with its passes and the bin order rule (R75, R80, R83, R85, R171 to R173), and the start of
a run-out (R55, R71, R72, R174).
-/
namespace Sys2Proof.Machine

theorem cancelling_iff {s : State} {j : JobSlot} : cancelling s j = true ↔ s.ogt.jobs[j].state = .cancelling :=
  decide_eq_true_iff

/-! ## CONFIRM CLEAR (R168, R169) -/

/-- A covered checkpoint blocks while no sheet, or a MANUAL one, occupies it (R168). -/
theorem blocking_iff (s : State) (c : Checkpoint) : blocking s c = true ↔
    s.stk.levels.getLsbD c.val = true ∧ ∀ r, s.occupant c = some r → r.disposition = some .manual := by
  unfold blocking
  cases s.occupant c <;> simp

theorem mem_blockingList {s : State} {c : Checkpoint} {t : Option Tag} : (c, t) ∈ blockingList s ↔
    s.stk.levels.getLsbD c.val = true ∧ t = (s.occupant c).map (·.tag) ∧
      ∀ r, s.occupant c = some r → r.disposition = some .manual := by
  simp only [blockingList, List.mem_map, List.mem_filter, List.mem_finRange, true_and, blocking_iff, Prod.mk.injEq]
  constructor
  · rintro ⟨c, ⟨hl, hm⟩, rfl, rfl⟩
    exact ⟨hl, rfl, hm⟩
  · rintro ⟨hl, rfl, hm⟩
    exact ⟨c, ⟨hl, hm⟩, rfl, rfl⟩

section
variable {q : Request} {s : State}

theorem confirmClear_refused (h : s.rcc.activeIn .jam .clearance = false) :
    confirmClear q s = s.replied q .refusedState [] := if_neg (by simp [h])

section
variable (h : s.rcc.activeIn .jam .clearance = true)
include h

theorem confirmClear_blocked (hb : blockingList s ≠ []) : confirmClear q s =
    post (.clearanceStatus (blockingList s)) (s.replied q .done (num1 1 ++ blockingBytes (blockingList s))) :=
  (if_pos h).trans (if_neg (by simpa using hb))

theorem confirmClear_clear (hb : blockingList s = []) : confirmClear q s = enterDispose (s.replied q .done [0, 0]) :=
  (if_pos h).trans (if_pos (by simp [hb]))

end
end

/-! ## The sheets DISPOSE ends and marks (R75, R80, R83, R85, R171) -/

section
variable {s : State} {t : Tag} {r : Sheet} (hr : s.sheet? t = some r)
include hr

theorem removeStranded_cancelled (hc : s.ogt.jobs[r.job].state = .cancelling) :
    removeStranded t s = endSheet t .removed s := by
  simp only [removeStranded, hr, cancelling_iff.2 hc, if_true]

theorem removeStranded_marks (hc : s.ogt.jobs[r.job].state ≠ .cancelling) :
    removeStranded t s = markLater (s.binOf r) r.seq (endSheet t .removed s) := by
  simp only [removeStranded, hr, cancelling_iff, hc, if_false]

theorem markSuspect_quiet (hs : r.state ≠ .settling) : markSuspect t s = s := by
  simp only [markSuspect, hr, hs, if_false]

theorem markSuspect_marks (hs : r.state = .settling) :
    markSuspect t s = setTimer (s.binOf r) none (updSheet t (fun x => { x with suspect := true }) s) := by
  simp only [markSuspect, hr, hs, if_true]

/-- An empty queue's timer stops. -/
theorem removeSettling_empties (he : (endSheet t .removed s).queueEmpty (s.binOf r) = true) :
    removeSettling t s = setTimer (s.binOf r) none (endSheet t .removed s) := by
  simp only [removeSettling, hr]
  exact if_pos he

section
variable (he : ¬(endSheet t .removed s).queueEmpty (s.binOf r) = true)
include he

/-- A queue that thaws restarts its timer. -/
theorem removeSettling_thaws (hf : s.frozen (s.binOf r) = true)
    (ht : (endSheet t .removed s).frozen (s.binOf r) = false) :
    removeSettling t s = restartTimer (s.binOf r) (endSheet t .removed s) := by
  simp only [removeSettling, hr]
  exact (if_neg he).trans (if_pos (by simp [hf, ht]))

theorem removeSettling_keeps (h : s.frozen (s.binOf r) = false ∨ (endSheet t .removed s).frozen (s.binOf r) = true) :
    removeSettling t s = endSheet t .removed s := by
  simp only [removeSettling, hr]
  exact (if_neg he).trans (if_neg (by rcases h with h | h <;> simp [h]))

end
end

section
variable {s : State} {b : Bin} {st : Stage} (l : List (Bin × Stage))

theorem removeSuspects_skips (h : (s.staged b st).all (fun r => !r.suspect) = true) :
    removeSuspects ((b, st) :: l) s = removeSuspects l s := by
  have hnone : (s.staged b st).filter (·.suspect) = none :=
    Option.filter_eq_none_iff.2 fun r hr => by simpa [hr] using h
  simp only [removeSuspects, hnone]

theorem removeSuspects_takes {r : Sheet} (h : s.staged b st = some r) (hs : r.suspect = true) :
    removeSuspects ((b, st) :: l) s = ((removeSuspects l (removeSettling r.tag s)).1,
      (b, r.tag, r.seq) :: (removeSuspects l (removeSettling r.tag s)).2) := by
  have hsome : (s.staged b st).filter (·.suspect) = some r := by rw [h, Option.filter_some_pos hs]
  simp only [removeSuspects, hsome]

end

/-! ## The bin order rule (R172) -/

theorem setPurge_iff (s : State) : setPurge s = true ↔ ∃ i, s.rcc.jam = some i ∧ i.setPurge = true := by
  cases h : s.rcc.jam <;> simp [setPurge, h]

theorem orderBlocked_iff {s : State} {b : Bin} {named : List Tag} {r : Sheet} :
    orderBlocked s b named r = true ↔ OrderBlocked s b named r := by
  simp only [orderBlocked, OrderBlocked, Bool.or_eq_true, Bool.and_eq_true, List.any_eq_true, decide_eq_true_eq,
    Bool.not_eq_true', ← Bool.not_eq_true, cancelling_iff, List.contains_iff_mem, setPurge_iff, or_assoc, and_assoc,
    ← exists_and_right]
  rfl

section
variable {s : State} {b : Bin} {named : List Tag} {r : Sheet} (rs : List Sheet)

theorem orderSheets_passes (h : ¬OrderBlocked s b named r) : orderSheets b (r :: rs) s named = orderSheets b rs s named :=
  if_neg (mt orderBlocked_iff.1 h)

theorem orderSheets_names (h : OrderBlocked s b named r) (hp : pastDivert (s.routeOf r) r = true) :
    orderSheets b (r :: rs) s named = orderSheets b rs s (named ++ [r.tag]) :=
  (if_pos (orderBlocked_iff.2 h)).trans (if_pos hp)

theorem orderSheets_purges (h : OrderBlocked s b named r) (hp : ¬pastDivert (s.routeOf r) r = true) :
    orderSheets b (r :: rs) s named = orderSheets b rs (setDisposition r.tag .purge s) named :=
  (if_pos (orderBlocked_iff.2 h)).trans (if_neg hp)

end

/-- The rule takes a bin's STRANDED DELIVER sheets in their delivery order. -/
theorem orderBins_cons {s : State} {b : Bin} {rs : List Sheet}
    (hp : rs.Perm (s.stk.sheets.filter fun r =>
      decide (r.state = .stranded ∧ r.disposition = some .deliver ∧ s.binOf r = b)))
    (hs : rs.Pairwise fun x y => x.seq < y.seq) (bs : List Bin) (named : List Tag) :
    orderBins (b :: bs) s named = orderBins bs (orderSheets b rs s named).1 (orderSheets b rs s named).2 := by
  simp only [orderBins, bySeq_eq hp hs]

/-! ## The set-disposition claim (R72, R75) -/

/-- A STRANDED record takes the disposition; a RUNOUT one beyond its divert-last step turns to the purge exit with it. -/
theorem Sheet.setDisposition_eq (rt : Route) (d : Disposition) (r : Sheet) : r.setDisposition rt d =
    if r.state = .stranded then { r with disposition := some d }
    else if r.state = .runout then { r with
      disposition := some d
      next := match r.next with
        | .step i => if d = .purge ∧ rt.divertIndex < i then .purgeExit else .step i
        | x => x }
    else r := by
  cases hs : r.state <;> simp only [Sheet.setDisposition, hs, reduceCtorEq, if_true, if_false]
  case runout =>
    cases hn : r.next <;> by_cases hd : d = .purge <;> simp [purgeCourse, hd]

/-! ## DISPOSE (R171 to R174) -/

/-- DISPOSE by its three passes, the bin order rule and the REMOVE REQUESTs; a sheet left STRANDED is run out. -/
theorem enterDispose_eq {s s1 s3 s4 : State} {i : Incident} {x : State × List (Bin × Tag × Seq)} {y : State × List Tag}
    (hj : s.rcc.jam = some i)
    (h1 : removePass (fun r => decide (r.disposition = some .manual))
      { s with rcc := { s.rcc with jam := some { i with phase := .dispose } } } = s1)
    (hx : removeSuspects allStages s1 = x) (h3 : removePass (pulled x.1) x.1 = s3)
    (hy : orderBins (List.finRange 6) s3 [] = y) (h4 : postSuspectRequests x.2 y.1 = s4) :
    enterDispose s = if ∃ r ∈ s4.stk.sheets, r.state = .stranded then enterRunout y.2 s4 else enterRebuild s4 := by
  simp only [enterDispose, setPhase_jam hj, h1, hx, h3, hy, h4, List.any_eq_true, decide_eq_true_eq]

/-! ## The start of a run-out (R55, R71, R72, R174) -/

theorem beginRunout_quiet {s : State} (h : s.stk.path ≠ .halted) : beginRunout s = s := if_neg h

/-- A RUNOUT record becomes out-of-order if it is among those named. -/
def Sheet.markedOut (named : List Tag) (r : Sheet) : Sheet :=
  if r.state = .runout ∧ r.tag ∈ named then { r with outOfOrder := true } else r

theorem markOutOfOrder_foldl (named : List Tag) (s : State) :
    named.foldl (fun u t => markOutOfOrder t u) s =
      { s with stk := { s.stk with sheets := s.stk.sheets.map (Sheet.markedOut named) } } := by
  induction named generalizing s with
  | nil =>
    have hnone : Sheet.markedOut [] = id := funext fun r => if_neg (by simp)
    rw [hnone, List.map_id]
    rfl
  | cons t ts ih =>
    have hboth (r : Sheet) : Sheet.markedOut ts (if r.tag = t then
        if r.state = .runout then { r with outOfOrder := true } else r else r) = r.markedOut (t :: ts) := by
      by_cases ht : r.tag = t <;> by_cases hs : r.state = .runout <;> simp [Sheet.markedOut, ht, hs]
    rw [List.foldl_cons, ih]
    simp only [markOutOfOrder, updSheet, State.onStk, List.map_map, Function.comp_def, hboth]

/-- A record as a run-out begins: a STRANDED one goes to RUNOUT with fresh stamps, on the course of its disposition, and the
named ones are out-of-order. -/
def Sheet.intoRunout (s : State) (named : List Tag) (r : Sheet) : Sheet :=
  if r.state = .stranded then
    { r with
      state := .runout
      runoutStamp := some s.ckm.tc
      occupied := r.occupied.map fun e => { e with base := s.ckm.tc }
      next := if r.disposition = some .purge then purgeCourse (s.routeOf r) r.next else r.next
      outOfOrder := r.outOfOrder || named.contains r.tag }
  else if r.state = .runout ∧ named.contains r.tag then { r with outOfOrder := true } else r

section
variable {s : State} (named : List Tag) (r : Sheet)

theorem beginRunout_markedOut :
    (r.beginRunout (s.routeOf r) s.ckm.tc).markedOut named = r.intoRunout s named := by
  by_cases hs : r.state = .stranded
  · by_cases hn : r.tag ∈ named <;> simp [Sheet.markedOut, Sheet.beginRunout, Sheet.intoRunout, hs, hn]
  · simp [Sheet.markedOut, Sheet.beginRunout, Sheet.intoRunout, hs]

theorem intoRunout_state : (r.intoRunout s named).state = .runout ↔ r.state = .stranded ∨ r.state = .runout := by
  unfold Sheet.intoRunout
  split
  next h => simp [h]
  next h => split <;> simp [h]

/-- The start of a run-out leaves a record's tag, disposition and route. -/
theorem intoRunout_course : (r.intoRunout s named).tag = r.tag ∧
    (r.intoRunout s named).disposition = r.disposition ∧ (r.intoRunout s named).snap = r.snap := by
  unfold Sheet.intoRunout
  repeat' split
  all_goals exact ⟨rfl, rfl, rfl⟩

end

/-- Of the records of a table, the named ones are those whose tags stand among its named tags. -/
theorem map_markedOut_present (named : List Tag) (l : List Sheet) :
    l.map (Sheet.markedOut ((l.filter fun r => named.contains r.tag).map (·.tag))) = l.map (Sheet.markedOut named) := by
  refine List.map_congr_left fun r hr => ?_
  have hmem : r.tag ∈ (l.filter fun r => named.contains r.tag).map (·.tag) ↔ r.tag ∈ named := by
    simp only [List.mem_map, List.mem_filter, List.contains_iff_mem]
    constructor
    · rintro ⟨x, ⟨-, hx⟩, ht⟩
      exact ht ▸ hx
    · exact fun hn => ⟨r, ⟨hr, hn⟩, rfl⟩
  simp only [Sheet.markedOut, hmem]

/-- RUNOUT is entered from the state `u` in which the run-out has begun: the named records are marked and the frame placed. -/
theorem enterRunout_begun {s u : State} (named : List Tag)
    (hu : beginRunout (onIncident .jam (fun i => { i with phase := .runout, runoutDone := false }) s) = u) :
    enterRunout named s = { u with
      stk := { u.stk with sheets := u.stk.sheets.map (Sheet.markedOut named) }
      li := Link.placeRunout (((u.stk.sheets.map (Sheet.markedOut named)).filter fun r => decide (r.state = .runout)).map
        fun r => (r.tag, runoutDest u r)) u.li } := by
  simp only [enterRunout, hu, markOutOfOrder_foldl, map_markedOut_present]
  rfl

/-- The records a run-out lists, each with where it is taken. -/
def State.runoutList (s : State) : List (Tag × Dest) :=
  (s.stk.sheets.filter fun r => decide (r.state = .stranded ∨ r.state = .runout)).map fun r =>
    (r.tag, if r.disposition = some .deliver then .bin (s.binOf r) else .purgeBin)

theorem enterRunout_halted {s : State} {i : Incident} (named : List Tag) (hj : s.rcc.jam = some i)
    (hp : s.stk.path = .halted) : enterRunout named s = { s with
      rcc := { s.rcc with jam := some { i with phase := .runout, runoutDone := false } }
      stk := { s.stk with path := .runningOut, sheets := s.stk.sheets.map (Sheet.intoRunout s named) }
      li := Link.placeRunout s.runoutList s.li } := by
  have hsheets : ((s.stk.sheets.map fun r => r.beginRunout (s.routeOf r) s.ckm.tc).map (Sheet.markedOut named)) =
      s.stk.sheets.map (Sheet.intoRunout s named) := by
    rw [List.map_map]
    exact List.map_congr_left fun r _ => beginRunout_markedOut named r
  have hlist : ((s.stk.sheets.map (Sheet.intoRunout s named)).filter fun r => decide (r.state = .runout)).map
      (fun r => (r.tag, runoutDest s r)) = s.runoutList := by
    simp only [List.filter_map, List.map_map, Function.comp_def, intoRunout_state, runoutDest, State.binOf,
      State.routeOf, intoRunout_course]
    rfl
  have hbegin : beginRunout (onIncident .jam (fun i => { i with phase := .runout, runoutDone := false }) s) = { s with
      rcc := { s.rcc with jam := some { i with phase := .runout, runoutDone := false } }
      stk := { s.stk with
        path := .runningOut, sheets := s.stk.sheets.map fun r => r.beginRunout (s.routeOf r) s.ckm.tc } } := by
    simp only [onIncident, State.onRcc, Recovery.get, Recovery.set, hj, Option.map_some]
    exact if_pos hp
  refine (enterRunout_begun named hbegin).trans ?_
  dsimp only
  rw [hsheets, ← hlist]
  rfl

end Sys2Proof.Machine

namespace Sys2Proof.Proofs
open Sys2Proof.Machine

/-- Settles O27: the request by what blocks, DISPOSE pass by pass with the bin order rule, and the start of a run-out. -/
theorem confirmClear : Obligations.ConfirmClear := by
  unfold Obligations.ConfirmClear
  refine ⟨fun s q rest h hc hn => ?request, fun s c t => mem_blockingList, fun s i hj => ?dispose,
    ⟨fun s p => rfl, fun s t r hr => ?stranded, fun s t r hr => ⟨markSuspect_quiet hr, markSuspect_marks hr⟩⟩,
    ⟨fun s => rfl, fun s b st l => ⟨removeSuspects_skips l, fun r => removeSuspects_takes l⟩, fun s t r hr => ?settling⟩,
    ⟨fun s named => rfl, fun s named b bs rs hp hs => orderBins_cons hp hs bs named, fun s b named => rfl,
      fun s b named r rs => ?order⟩,
    fun s t d => ?disposition, fun s => beginRunout_quiet, fun s named i => enterRunout_halted named⟩
  case request =>
    have hl := requestLengthOk_of_row (c := .confirmClear) (by simp [requestRows]) hc hn
    have hw := decide_eq_true hc
    refine ⟨fun ha => event_answered h hw hl (confirmClear_refused (s := s.taken rest) ha) rfl, fun ha hb => ?_,
      fun ha hb => ?_⟩
    · have hdone := confirmClear_blocked (q := q) (s := s.taken rest) ha hb
      refine (onRequest_quiet Machine.confirmClear h hc hl ?_).trans (congrArg Host.Outcome.next hdone)
      rw [hdone]
      exact (gateView_answered s q _ _ rest).trans (gateView_post _ _)
    · refine (onRequest_taken Machine.confirmClear h hc hl).trans ?_
      rw [confirmClear_clear (s := s.taken rest) ha hb]
      rfl
  case dispose =>
    intro s1 x s2 s3 y s4
    have hbins : List.finRange 6 = [(0 : Bin), 1, 2, 3, 4, 5] := by decide
    have hx : removeSuspects allStages s1 = x := by rw [allStages_eq]
    have hy : orderBins (List.finRange 6) s3 [] = y := by rw [hbins]
    have hdispose := enterDispose_eq hj (s1 := s1) rfl hx (s3 := s3) rfl hy (postSuspectRequests_eq x.2 y.1)
    exact ⟨fun h => hdispose.trans (if_pos h), fun h => hdispose.trans (if_neg fun ⟨r, hr, hs⟩ => h r hr hs)⟩
  case stranded =>
    intro u
    exact ⟨removeStranded_cancelled hr, fun hc => (removeStranded_marks hr hc).trans (markLater_eq _ _ u)⟩
  case settling =>
    intro b u timer
    refine ⟨fun ha hb => removeSettling_empties hr (queueEmpty_iff.2 ⟨ha, hb⟩), fun hh => ?_⟩
    have he : ¬u.queueEmpty b = true := fun he => by
      obtain ⟨ha, hb⟩ := queueEmpty_iff.1 he
      simp [ha, hb] at hh
    exact ⟨removeSettling_thaws hr he, removeSettling_keeps hr he⟩
  case order =>
    intro past
    have hpast : pastDivert (s.routeOf r) r = true ↔ past := pastDivert_iff _ _
    exact ⟨orderSheets_passes rs, fun hb hp => orderSheets_names rs hb (hpast.2 hp),
      fun hb hp => orderSheets_purges rs hb (mt hpast.1 hp)⟩
  case disposition =>
    refine congrArg (fun l => { s with stk := { s.stk with sheets := l } }) (List.map_congr_left fun r _ => ?_)
    by_cases ht : r.tag = t
    · subst ht
      simp only [if_true, true_and]
      exact Sheet.setDisposition_eq (s.routeOf r) d r
    · simp only [ht, if_false, false_and]

end Sys2Proof.Proofs
end

section
/-!
The queue of commands (log 1, log 2): every row answers a next state whose queue is the one it was given; the step takes the
front command, and an empty queue idles.
-/
namespace Sys2Proof.Machine

/-! ## The queue: kept by every row -/

/-- The commands that wait are `q`. -/
abbrev QueueIs (q : List Instr) (s : State) : Prop := s.pending = q

/-- The answer is a next state whose queue is `q`. -/
def AnswersNext (q : List Instr) (o : Host.Outcome State Fault Refusal) : Prop := ∃ t, o = .next t ∧ QueueIs q t

variable {q : List Instr}

theorem queueIs_rows (q : List Instr) : RowClosed (QueueIs q) where
  toClosed := closed_pending q
  pds _ _ h := h
  ckm _ _ h := h
  cre _ _ h := h
  take _ _ _ _ h := h
  answer _ _ h := h
  passUp _ _ h := h
  bandout _ _ h := h
  placeFeed _ _ h := h

/-! ### The rows that act on the link itself -/

theorem receive_queueIs (p : Port) (bytes : List Byte) {s : State} (h : QueueIs q s) : QueueIs q (receive p bytes s) := by
  unfold receive goodFrame
  repeat' split
  · exact h
  · exact h
  · exact h
  · exact (queueIs_rows q).call _ _ h
  · exact (queueIs_rows q).engstat _ h

theorem engcmd_queueIs {s : State} (h : QueueIs q s) : QueueIs q (engcmd s) := by
  unfold engcmd
  repeat' split
  all_goals exact h

theorem uFrameSent_queueIs {s : State} (h : QueueIs q s) : QueueIs q (uFrameSent s) := by
  unfold uFrameSent
  split <;> exact h

theorem eFrameSent_queueIs {s : State} (h : QueueIs q s) : QueueIs q (eFrameSent s) := by
  unfold eFrameSent
  split <;> exact h

theorem haltSent_queueIs {s : State} (h : QueueIs q s) : QueueIs q (haltSent s) := by
  have hhalted : QueueIs q ((s.onLi fun l => { l with eTx := none, bandoutPlace := none }).onCkm Monitor.haltSent) := h
  unfold haltSent
  split
  · exact (queueIs_rows q).abandonReplay hhalted
  · exact h

theorem bandoutSent_queueIs {s : State} (h : QueueIs q s) : QueueIs q (bandoutSent s) := by
  have hfree : QueueIs q (s.onLi fun l => { l with eTx := none }) := h
  unfold bandoutSent
  split
  · dsimp only
    split
    · exact (queueIs_rows q).imagingDone _ hfree
    · exact h
  · exact h

/-! ### PORST (R16) -/

theorem assertPorst_queueIs {s : State} (h : QueueIs q s) : QueueIs q (assertPorst s) := by
  unfold assertPorst
  split <;> exact h

/-- The release takes the power-on values, but for the queue (R16). -/
theorem releasePorst_queueIs {s : State} (h : QueueIs q s) : QueueIs q (releasePorst s) := by
  unfold releasePorst
  split <;> exact h

/-! ### Every row -/

/-- An event answers a next state: the state itself under PORST, else what it makes of it, watched. -/
theorem event_answersNext {f : State → State} {s : State} (h : QueueIs q s) (hf : QueueIs q (f s)) :
    AnswersNext q (event f s) := by
  unfold event
  split
  · exact ⟨s, rfl, h⟩
  · exact ⟨_, rfl, (queueIs_rows q).watchGate _ hf⟩

theorem onRequest_answersNext {code : Nat} {act : Request → State → State} {s : State} (h : QueueIs q s)
    (ha : RowClosed.Owner (QueueIs q) act) : AnswersNext q (onRequest code act s) :=
  event_answersNext h ((queueIs_rows q).takeRequest _ ha h)

/-- A status row: its block reads the status, and the frame is passed up (R9). -/
theorem statusRow_answersNext (f : State → State) {x : Frame} {s : State} (h : QueueIs q s) (hf : QueueIs q (f s)) :
    AnswersNext q (event (fun v => (f v).onLi (Link.passUp x)) s) := event_answersNext h hf

/-- The end of a write transfer is watched within the row and not again as a whole (R140). -/
theorem execWriteTransferEnd_answersNext {s : State} (h : QueueIs q s) : AnswersNext q (execWriteTransferEnd s) := by
  unfold execWriteTransferEnd
  split
  · exact ⟨s, rfl, h⟩
  · exact ⟨_, rfl, (queueIs_rows q).writeTransferEnd h⟩

/-- Every command answers a next state with the queue it was given. -/
theorem exec_answersNext (c : Instr) {s : State} (h : QueueIs q s) : AnswersNext q (exec c s) := by
  have hr := queueIs_rows q
  cases c with
  | porstAssert => exact ⟨_, rfl, assertPorst_queueIs h⟩
  | porstRelease => exact ⟨_, rfl, releasePorst_queueIs h⟩
  | writeTransferEnd => exact execWriteTransferEnd_answersNext h
  | frameReceived p bytes => exact event_answersNext h (receive_queueIs p bytes h)
  | order => exact event_answersNext h (hr.order h)
  | band => exact event_answersNext h (hr.band h)
  | engcmd => exact event_answersNext h (engcmd_queueIs h)
  | mgmtUnknownRequest => exact event_answersNext h (hr.takeRequest _ (fun q _ => hr.reply q .refusedUnknown []) h)
  | readStatus => exact onRequest_answersNext h fun _ _ hs => hs
  | resetPart => exact onRequest_answersNext h fun _ _ hs => hs
  | loadRoute => exact event_answersNext h (hr.takeRequest _ (hr.inSetup hr.loadRoute) h)
  | unloadRoute => exact event_answersNext h (hr.takeRequest _ (hr.inSetup hr.unloadRoute) h)
  | loadBin => exact onRequest_answersNext h (hr.inSetup hr.loadBin)
  | loadTray => exact onRequest_answersNext h (hr.inSetup hr.loadTray)
  | setTiming => exact onRequest_answersNext h (hr.inSetup hr.setTiming)
  | start => exact onRequest_answersNext h (hr.inSetup hr.start)
  | stop => exact onRequest_answersNext h hr.stop
  | readSheets => exact onRequest_answersNext h fun _ _ => hr.reply _ _ _
  | readBin => exact onRequest_answersNext h hr.readBin
  | setRetentionMode => exact onRequest_answersNext h hr.setRetentionMode
  | inquirePage => exact onRequest_answersNext h hr.inquirePage
  | dropPage => exact onRequest_answersNext h hr.dropPage
  | flush => exact onRequest_answersNext h hr.flush
  | flushWalkStep => exact event_answersNext h (hr.flushWalkStep h)
  | openJob => exact onRequest_answersNext h hr.openJob
  | closeJob => exact onRequest_answersNext h hr.closeJob
  | cancelJob => exact onRequest_answersNext h hr.cancelJob
  | trayReady => exact onRequest_answersNext h hr.trayReady
  | readQueues => exact onRequest_answersNext h fun _ _ => hr.reply _ _ _
  | readIncidents => exact onRequest_answersNext h fun _ _ => hr.reply _ _ _
  | confirmClear => exact onRequest_answersNext h hr.confirmClear
  | call tag side => exact event_answersNext h (hr.call tag side h)
  | trayEmpty t rest => exact statusRow_answersNext (setEmpty t true) h (hr.setEmpty t true h)
  | trayFilled t rest => exact statusRow_answersNext (setEmpty t false) h (hr.setEmpty t false h)
  | binFull b rest => exact statusRow_answersNext (readBinFull b) h (hr.readBinFull b h)
  | binCleared b rest => exact statusRow_answersNext (setFull b false) h (hr.setFull b false h)
  | setEjected b rest => exact statusRow_answersNext (ejectSet b) h (hr.ejectSet b h)
  | engineFault code => exact statusRow_answersNext (readEngineFault code) h (hr.raiseJam _ _ _ _ h)
  | compileFault b rest => exact statusRow_answersNext (readCompileFault b) h (hr.readCompileFault b h)
  | engstatUnread body => exact event_answersNext h (hr.engstatUnread body h)
  | uFrameSent => exact event_answersNext h (uFrameSent_queueIs h)
  | eFrameSent => exact event_answersNext h (eFrameSent_queueIs h)
  | haltSent => exact event_answersNext h (haltSent_queueIs h)
  | bandoutSent => exact event_answersNext h (bandoutSent_queueIs h)
  | bandoutGiven => exact event_answersNext h (hr.bandoutGiven h)
  | readTransferEnd => exact event_answersNext h (hr.readTransferEnd h)
  | leadEdge ck => exact event_answersNext h (hr.leadEdge ck h)
  | trailEdge ck => exact event_answersNext h (hr.trailEdge ck h)
  | coverOpen c first => exact event_answersNext h (hr.coverOpen c first h)
  | coverShut c => exact event_answersNext h (hr.coverShut c h)
  | tpEdge => exact event_answersNext h (hr.ckm _ _ h)
  | countAdvance => exact event_answersNext h (hr.countAdvance h)
  | leadWindowExpiry => exact event_answersNext h (hr.leadWindowExpiry h)
  | trailDeadlineExpiry => exact event_answersNext h (hr.trailDeadlineExpiry h)
  | runoutDeadlineExpiry => exact event_answersNext h (hr.runoutDeadlineExpiry h)
  | pathStill => exact event_answersNext h (hr.pathStill h)
  | settleTimerExpiry b => exact event_answersNext h (hr.settleTimerExpiry b h)
  | coverSettleExpiry => exact event_answersNext h (hr.coverSettleExpiry h)
  | admitGateHead => exact event_answersNext h (hr.admitGateHead h)
  | wallTick lines => exact event_answersNext h (hr.wallTick lines h)
  | checkpointSampleInstant lines => exact event_answersNext h (hr.ckm _ _ h)

/-! ## The step -/

/-- A step runs the front command on the rest of the queue. -/
theorem step_front {s : State} {c : Instr} {rest : List Instr} (h : s.pending = c :: rest) :
    step s = exec c { s with pending := rest } := by
  simp only [step, h]

/-- On an empty queue a step idles. -/
theorem step_idle {s : State} (h : s.pending = []) : step s = .next s := by
  simp only [step, h]

end Sys2Proof.Machine

namespace Sys2Proof.Proofs
open Sys2Proof.Machine

/-- Settles O2: row by row, for the queue that the command finds. -/
theorem everyCommandAnswersNext : Obligations.EveryCommandAnswersNext := by
  unfold Obligations.EveryCommandAnswersNext
  exact fun c _ => exec_answersNext c rfl

/-- Settles O1: the two cases of the queue. -/
theorem stepRunsFrontCommand : Obligations.StepRunsFrontCommand := by
  unfold Obligations.StepRunsFrontCommand
  exact ⟨fun _ _ _ => step_front, fun _ => step_idle⟩

end Sys2Proof.Proofs
end

section
/-!
The invariants right after reset: no queue holds a frame, no table an entry, every block of the pool is free, and the divider
stands at 0.
-/
namespace Sys2Proof.Machine

theorem linkOk_reset : LinkOk Link.reset := by
  constructor <;> simp [Link.reset]

/-- The retention DRAM and the length records list nothing (log 10). -/
theorem dramOk_reset : DramOk Capture.reset := ⟨wf_reset, List.Pairwise.nil⟩

/-- Without lines every block is on the free list (R116). -/
theorem poolOk_reset : PoolOk Directory.reset where
  rising := List.Pairwise.nil
  blocks := by simp [Directory.reset]

theorem directoryOk_reset : DirectoryOk Directory.reset := by
  constructor <;> simp [Directory.reset, Cells.Rising]

/-- No flush walk is active (R116). -/
theorem walkOk_reset : WalkOk Directory.reset := fun _ hw => nomatch hw

theorem tableOk_reset : TableOk Tracker.reset := TableInOrder.of_empty (s := State.reset) rfl

theorem dividerOk_reset : DividerOk State.reset := Nat.two_pow_pos _

/-- No edge waits. -/
theorem edgesOk_reset : EdgesOk Monitor.reset := fun _ hg => nomatch hg

end Sys2Proof.Machine

namespace Sys2Proof.Proofs
open Sys2Proof.Machine

/-- Settles O55: block by block. -/
theorem invariantsAtReset : Obligations.InvariantsAtReset := by
  unfold Obligations.InvariantsAtReset
  exact ⟨linkOk_reset, dramOk_reset, poolOk_reset, directoryOk_reset, walkOk_reset, tableOk_reset, dividerOk_reset,
    edgesOk_reset, recoveryOk_reset⟩

end Sys2Proof.Proofs
end
